-- ==== Sys2Proof/Word.lean ====
section
/-! DEFINITION. The widths of the machine: bytes and 16-bit addresses (00_scope.md R2). -/

namespace Sys2Proof

/-- An 8-bit register, flag byte, operand byte or memory cell (R2: register width 8 bits). -/
abbrev Byte := BitVec 8

/-- A 16-bit address or program counter (R2). -/
abbrev Addr := BitVec 16

end Sys2Proof
end

