-- ==== Sys2Proof/Syntax.lean ====
section
/-! DEFINITION. The instructions, their operands and the Instruction record (30_encoding.md). -/

namespace Sys2Proof

/-- The 56 mnemonics of 30_encoding.md R61 (52, and the four of `INDEX_INCDEC`). -/
inductive Mnemonic where
  | adc | and | asl | bcc | bcs | beq | bit | bmi | bne | bpl | brk | bvc | bvs | clc
  | cld | cli | clv | cmp | cpx | cpy | dec | dex | dey | eor | inc | inx | iny | jmp
  | jsr | lda | ldx | ldy | lsr | nop | ora | pha | php | pla | plp | rol | ror | rti
  | rts | sbc | sec | sed | sei | sta | stx | sty | tax | tay | tsx | txa | txs | tya
  deriving DecidableEq, Repr

/-- The 13 addressing mode tags of R52. -/
inductive Mode where
  | imp | acc | imm | zp | zpx | zpy | abs | abx | aby | izx | izy | rel | ind
  deriving DecidableEq, Repr

/-- The eight modes that reach memory, each with its operand bytes assembled (R52): an 8-bit
zero-page address `d` or a 16-bit address `a`. -/
inductive MemMode where
  | zp (d : Byte) | zpx (d : Byte) | zpy (d : Byte)
  | abs (a : Addr) | abx (a : Addr) | aby (a : Addr)
  | izx (d : Byte) | izy (d : Byte)
  deriving DecidableEq, Repr

/-- An operand form of R52: none, the accumulator, an immediate byte, a memory operand, a branch
offset, the 16-bit target of JMP absolute and JSR, or the pointer of JMP indirect. -/
inductive Operand where
  | imp
  | acc
  | imm (v : Byte)
  | mem (m : MemMode)
  | rel (off : Byte)
  | target (a : Addr)
  | ind (a : Addr)
  deriving DecidableEq, Repr

/-- The Instruction record, the block's input (R50): the opcode byte, the two operand bytes (for an
absolute operand the high byte first) and the instruction's length in bytes. -/
structure Record where
  opCode : Byte
  ob0 : Byte
  ob1 : Byte
  size : Nat
  deriving DecidableEq, Repr

/-- One constructor for each row of the opcode table (R53; `spec/opcode_table.json`), named by its
mnemonic and addressing mode, with the operand assembled as R52 says. -/
inductive Instr where
  | brk
  | oraIzx (d : Byte)
  | oraZp (d : Byte)
  | aslZp (d : Byte)
  | php
  | oraImm (v : Byte)
  | aslAcc
  | oraAbs (a : Addr)
  | aslAbs (a : Addr)
  | bpl (off : Byte)
  | oraIzy (d : Byte)
  | oraZpx (d : Byte)
  | aslZpx (d : Byte)
  | clc
  | oraAby (a : Addr)
  | oraAbx (a : Addr)
  | aslAbx (a : Addr)
  | jsrAbs (a : Addr)
  | andIzx (d : Byte)
  | bitZp (d : Byte)
  | andZp (d : Byte)
  | rolZp (d : Byte)
  | plp
  | andImm (v : Byte)
  | rolAcc
  | bitAbs (a : Addr)
  | andAbs (a : Addr)
  | rolAbs (a : Addr)
  | bmi (off : Byte)
  | andIzy (d : Byte)
  | andZpx (d : Byte)
  | rolZpx (d : Byte)
  | sec
  | andAby (a : Addr)
  | andAbx (a : Addr)
  | rolAbx (a : Addr)
  | rti
  | eorIzx (d : Byte)
  | eorZp (d : Byte)
  | lsrZp (d : Byte)
  | pha
  | eorImm (v : Byte)
  | lsrAcc
  | jmpAbs (a : Addr)
  | eorAbs (a : Addr)
  | lsrAbs (a : Addr)
  | bvc (off : Byte)
  | eorIzy (d : Byte)
  | eorZpx (d : Byte)
  | lsrZpx (d : Byte)
  | cli
  | eorAby (a : Addr)
  | eorAbx (a : Addr)
  | lsrAbx (a : Addr)
  | rts
  | adcIzx (d : Byte)
  | adcZp (d : Byte)
  | rorZp (d : Byte)
  | pla
  | adcImm (v : Byte)
  | rorAcc
  | jmpInd (a : Addr)
  | adcAbs (a : Addr)
  | rorAbs (a : Addr)
  | bvs (off : Byte)
  | adcIzy (d : Byte)
  | adcZpx (d : Byte)
  | rorZpx (d : Byte)
  | sei
  | adcAby (a : Addr)
  | adcAbx (a : Addr)
  | rorAbx (a : Addr)
  | staIzx (d : Byte)
  | styZp (d : Byte)
  | staZp (d : Byte)
  | stxZp (d : Byte)
  | dey
  | txa
  | styAbs (a : Addr)
  | staAbs (a : Addr)
  | stxAbs (a : Addr)
  | bcc (off : Byte)
  | staIzy (d : Byte)
  | styZpx (d : Byte)
  | staZpx (d : Byte)
  | stxZpy (d : Byte)
  | tya
  | staAby (a : Addr)
  | txs
  | staAbx (a : Addr)
  | ldyImm (v : Byte)
  | ldaIzx (d : Byte)
  | ldxImm (v : Byte)
  | ldyZp (d : Byte)
  | ldaZp (d : Byte)
  | ldxZp (d : Byte)
  | tay
  | ldaImm (v : Byte)
  | tax
  | ldyAbs (a : Addr)
  | ldaAbs (a : Addr)
  | ldxAbs (a : Addr)
  | bcs (off : Byte)
  | ldaIzy (d : Byte)
  | ldyZpx (d : Byte)
  | ldaZpx (d : Byte)
  | ldxZpy (d : Byte)
  | clv
  | ldaAby (a : Addr)
  | tsx
  | ldyAbx (a : Addr)
  | ldaAbx (a : Addr)
  | ldxAby (a : Addr)
  | cpyImm (v : Byte)
  | cmpIzx (d : Byte)
  | cpyZp (d : Byte)
  | cmpZp (d : Byte)
  | decZp (d : Byte)
  | iny
  | cmpImm (v : Byte)
  | dex
  | cpyAbs (a : Addr)
  | cmpAbs (a : Addr)
  | decAbs (a : Addr)
  | bne (off : Byte)
  | cmpIzy (d : Byte)
  | cmpZpx (d : Byte)
  | decZpx (d : Byte)
  | cld
  | cmpAby (a : Addr)
  | cmpAbx (a : Addr)
  | decAbx (a : Addr)
  | cpxImm (v : Byte)
  | sbcIzx (d : Byte)
  | cpxZp (d : Byte)
  | sbcZp (d : Byte)
  | incZp (d : Byte)
  | inx
  | sbcImm (v : Byte)
  | nop
  | cpxAbs (a : Addr)
  | sbcAbs (a : Addr)
  | incAbs (a : Addr)
  | beq (off : Byte)
  | sbcIzy (d : Byte)
  | sbcZpx (d : Byte)
  | incZpx (d : Byte)
  | sed
  | sbcAby (a : Addr)
  | sbcAbx (a : Addr)
  | incAbx (a : Addr)
  deriving DecidableEq, Repr

end Sys2Proof
end

