-- ==== Sys2Proof/Config.lean ====
section
/-! DEFINITION. The parameters the spec leaves open and the model takes as data (00_scope.md R3). -/

namespace Sys2Proof

/-- One row of `OPCODE_TABLE` (R53): the opcode byte, the mnemonic, which names the executor, the
addressing mode, and the columns `BASE_CYCLES` and `PAGE_SENSITIVE` of the byte (R89). A control-flow
opcode charges the cost its own rule gives (R72), so the last two are never read for one. -/
structure TableRow where
  op : Byte
  mnem : Mnemonic
  mode : Mode
  cyc : Nat
  pcs : Bool
  deriving DecidableEq, Repr

/-- An `OPCODE_TABLE` (R3, R53). -/
abbrev OpcodeTable := List TableRow

/-- `FLAG_POS` (R3, R14): the bit of the status byte that holds each flag, and the two unused bits that
are forced to 1 when the byte is pushed. -/
structure FlagPos where
  c : Fin 8
  z : Fin 8
  i : Fin 8
  d : Fin 8
  /-- the unused position conventionally called "break" -/
  b : Fin 8
  /-- the unused position conventionally called "bit-5" -/
  u : Fin 8
  v : Fin 8
  n : Fin 8
  deriving DecidableEq, Repr

/-- The parameters of rule R3 that bear on a step. They are carried as plain data (the field `config` of
the machine state, which no step writes), so that a claim about all states holds for every value of
them. The two that do not bear on a step, `MEM_INIT` and `HALT_PC`, are arguments of cold boot and of
`run`. -/
structure Config where
  /-- `FLAG_POS` (decision D2; log entry 4) -/
  flagPos : FlagPos
  /-- `OPCODE_TABLE`, and with it `BASE_CYCLES` and `PAGE_SENSITIVE` (decisions D1, D4, D5; log entries
  5, 6 and 21); `none` is the table of R53 -/
  opcodeTable : Option OpcodeTable
  /-- `INDEX_INCDEC` (R56, decision D3; log entry 1): whether INX, INY, DEX and DEY are in the table -/
  indexIncdec : Bool
  /-- `SBC_V_COMPLEMENT` (R121, decision D6; log entry 2): whether SBC's overflow formula takes the
  complemented operand (`true`) or the operand itself (`false`) -/
  sbcVComplement : Bool
  /-- `CYCLE_WIDTH` (R16, decision D11; log entry 7): `none` is an unbounded counter, `some w` one of
  `w` bits that wraps -/
  cycleWidth : Option Nat
  deriving DecidableEq, Repr

end Sys2Proof
end

