-- ==== Sys2Proof/Machine/Bits.lean ====
section
/-! DEFINITION. Byte and address helpers in the spec's notation (00_scope.md R5). -/

namespace Sys2Proof.Machine

/-- `hi8(w) = w[15:8]` (R5). -/
def hi8 (w : Addr) : Byte := BitVec.ofNat 8 (w.toNat / 256)

/-- `lo8(w) = w[7:0]` (R5). -/
def lo8 (w : Addr) : Byte := BitVec.ofNat 8 w.toNat

/-- `{h, l} = h * 256 + l` (R5). -/
def word16 (h l : Byte) : Addr := BitVec.ofNat 16 (h.toNat * 256 + l.toNat)

/-- A byte as a 16-bit address, zero extended (R5, R52). -/
def zext16 (b : Byte) : Addr := BitVec.ofNat 16 b.toNat

/-- `sext_16(b)`: `b` if `b < 128`, else `b + 0xFF00` (R5). -/
def sext16 (b : Byte) : Addr :=
  if b.toNat < 128 then BitVec.ofNat 16 b.toNat else BitVec.ofNat 16 (b.toNat + 0xFF00)

/-- The byte whose bit `k` is `b` and whose other bits are 0: the `b << k` of R143 and R160. -/
def bitAt (b : Bool) (k : Nat) : Byte := if b then 1#8 <<< k else 0#8

end Sys2Proof.Machine
end

