-- ==== Sys2Proof/Machine/OpcodeTable.lean ====
section
/-! DEFINITION. What an instruction is as syntax (30_encoding.md R51 to R53), which executors take which
modes (40_dispatch_and_addressing.md R75), and the opcode map: the published table of R53, whose bytes,
pairings and lengths are decision D1, whose base cycles are D4 and whose page-cross-sensitive set is D5
(log entries 5 and 6), and the reading of any table, by opcode byte and by pairing. -/

namespace Sys2Proof

open Sys2Proof.Machine

/-- The mnemonic of an instruction (R53) and its operand form with its value (R52). -/
def Instr.shape : Instr → Mnemonic × Operand
  | .brk => (.brk, .imp)
  | .oraIzx d => (.ora, .mem (.izx d))
  | .oraZp d => (.ora, .mem (.zp d))
  | .aslZp d => (.asl, .mem (.zp d))
  | .php => (.php, .imp)
  | .oraImm v => (.ora, .imm v)
  | .aslAcc => (.asl, .acc)
  | .oraAbs a => (.ora, .mem (.abs a))
  | .aslAbs a => (.asl, .mem (.abs a))
  | .bpl off => (.bpl, .rel off)
  | .oraIzy d => (.ora, .mem (.izy d))
  | .oraZpx d => (.ora, .mem (.zpx d))
  | .aslZpx d => (.asl, .mem (.zpx d))
  | .clc => (.clc, .imp)
  | .oraAby a => (.ora, .mem (.aby a))
  | .oraAbx a => (.ora, .mem (.abx a))
  | .aslAbx a => (.asl, .mem (.abx a))
  | .jsrAbs a => (.jsr, .target a)
  | .andIzx d => (.and, .mem (.izx d))
  | .bitZp d => (.bit, .mem (.zp d))
  | .andZp d => (.and, .mem (.zp d))
  | .rolZp d => (.rol, .mem (.zp d))
  | .plp => (.plp, .imp)
  | .andImm v => (.and, .imm v)
  | .rolAcc => (.rol, .acc)
  | .bitAbs a => (.bit, .mem (.abs a))
  | .andAbs a => (.and, .mem (.abs a))
  | .rolAbs a => (.rol, .mem (.abs a))
  | .bmi off => (.bmi, .rel off)
  | .andIzy d => (.and, .mem (.izy d))
  | .andZpx d => (.and, .mem (.zpx d))
  | .rolZpx d => (.rol, .mem (.zpx d))
  | .sec => (.sec, .imp)
  | .andAby a => (.and, .mem (.aby a))
  | .andAbx a => (.and, .mem (.abx a))
  | .rolAbx a => (.rol, .mem (.abx a))
  | .rti => (.rti, .imp)
  | .eorIzx d => (.eor, .mem (.izx d))
  | .eorZp d => (.eor, .mem (.zp d))
  | .lsrZp d => (.lsr, .mem (.zp d))
  | .pha => (.pha, .imp)
  | .eorImm v => (.eor, .imm v)
  | .lsrAcc => (.lsr, .acc)
  | .jmpAbs a => (.jmp, .target a)
  | .eorAbs a => (.eor, .mem (.abs a))
  | .lsrAbs a => (.lsr, .mem (.abs a))
  | .bvc off => (.bvc, .rel off)
  | .eorIzy d => (.eor, .mem (.izy d))
  | .eorZpx d => (.eor, .mem (.zpx d))
  | .lsrZpx d => (.lsr, .mem (.zpx d))
  | .cli => (.cli, .imp)
  | .eorAby a => (.eor, .mem (.aby a))
  | .eorAbx a => (.eor, .mem (.abx a))
  | .lsrAbx a => (.lsr, .mem (.abx a))
  | .rts => (.rts, .imp)
  | .adcIzx d => (.adc, .mem (.izx d))
  | .adcZp d => (.adc, .mem (.zp d))
  | .rorZp d => (.ror, .mem (.zp d))
  | .pla => (.pla, .imp)
  | .adcImm v => (.adc, .imm v)
  | .rorAcc => (.ror, .acc)
  | .jmpInd a => (.jmp, .ind a)
  | .adcAbs a => (.adc, .mem (.abs a))
  | .rorAbs a => (.ror, .mem (.abs a))
  | .bvs off => (.bvs, .rel off)
  | .adcIzy d => (.adc, .mem (.izy d))
  | .adcZpx d => (.adc, .mem (.zpx d))
  | .rorZpx d => (.ror, .mem (.zpx d))
  | .sei => (.sei, .imp)
  | .adcAby a => (.adc, .mem (.aby a))
  | .adcAbx a => (.adc, .mem (.abx a))
  | .rorAbx a => (.ror, .mem (.abx a))
  | .staIzx d => (.sta, .mem (.izx d))
  | .styZp d => (.sty, .mem (.zp d))
  | .staZp d => (.sta, .mem (.zp d))
  | .stxZp d => (.stx, .mem (.zp d))
  | .dey => (.dey, .imp)
  | .txa => (.txa, .imp)
  | .styAbs a => (.sty, .mem (.abs a))
  | .staAbs a => (.sta, .mem (.abs a))
  | .stxAbs a => (.stx, .mem (.abs a))
  | .bcc off => (.bcc, .rel off)
  | .staIzy d => (.sta, .mem (.izy d))
  | .styZpx d => (.sty, .mem (.zpx d))
  | .staZpx d => (.sta, .mem (.zpx d))
  | .stxZpy d => (.stx, .mem (.zpy d))
  | .tya => (.tya, .imp)
  | .staAby a => (.sta, .mem (.aby a))
  | .txs => (.txs, .imp)
  | .staAbx a => (.sta, .mem (.abx a))
  | .ldyImm v => (.ldy, .imm v)
  | .ldaIzx d => (.lda, .mem (.izx d))
  | .ldxImm v => (.ldx, .imm v)
  | .ldyZp d => (.ldy, .mem (.zp d))
  | .ldaZp d => (.lda, .mem (.zp d))
  | .ldxZp d => (.ldx, .mem (.zp d))
  | .tay => (.tay, .imp)
  | .ldaImm v => (.lda, .imm v)
  | .tax => (.tax, .imp)
  | .ldyAbs a => (.ldy, .mem (.abs a))
  | .ldaAbs a => (.lda, .mem (.abs a))
  | .ldxAbs a => (.ldx, .mem (.abs a))
  | .bcs off => (.bcs, .rel off)
  | .ldaIzy d => (.lda, .mem (.izy d))
  | .ldyZpx d => (.ldy, .mem (.zpx d))
  | .ldaZpx d => (.lda, .mem (.zpx d))
  | .ldxZpy d => (.ldx, .mem (.zpy d))
  | .clv => (.clv, .imp)
  | .ldaAby a => (.lda, .mem (.aby a))
  | .tsx => (.tsx, .imp)
  | .ldyAbx a => (.ldy, .mem (.abx a))
  | .ldaAbx a => (.lda, .mem (.abx a))
  | .ldxAby a => (.ldx, .mem (.aby a))
  | .cpyImm v => (.cpy, .imm v)
  | .cmpIzx d => (.cmp, .mem (.izx d))
  | .cpyZp d => (.cpy, .mem (.zp d))
  | .cmpZp d => (.cmp, .mem (.zp d))
  | .decZp d => (.dec, .mem (.zp d))
  | .iny => (.iny, .imp)
  | .cmpImm v => (.cmp, .imm v)
  | .dex => (.dex, .imp)
  | .cpyAbs a => (.cpy, .mem (.abs a))
  | .cmpAbs a => (.cmp, .mem (.abs a))
  | .decAbs a => (.dec, .mem (.abs a))
  | .bne off => (.bne, .rel off)
  | .cmpIzy d => (.cmp, .mem (.izy d))
  | .cmpZpx d => (.cmp, .mem (.zpx d))
  | .decZpx d => (.dec, .mem (.zpx d))
  | .cld => (.cld, .imp)
  | .cmpAby a => (.cmp, .mem (.aby a))
  | .cmpAbx a => (.cmp, .mem (.abx a))
  | .decAbx a => (.dec, .mem (.abx a))
  | .cpxImm v => (.cpx, .imm v)
  | .sbcIzx d => (.sbc, .mem (.izx d))
  | .cpxZp d => (.cpx, .mem (.zp d))
  | .sbcZp d => (.sbc, .mem (.zp d))
  | .incZp d => (.inc, .mem (.zp d))
  | .inx => (.inx, .imp)
  | .sbcImm v => (.sbc, .imm v)
  | .nop => (.nop, .imp)
  | .cpxAbs a => (.cpx, .mem (.abs a))
  | .sbcAbs a => (.sbc, .mem (.abs a))
  | .incAbs a => (.inc, .mem (.abs a))
  | .beq off => (.beq, .rel off)
  | .sbcIzy d => (.sbc, .mem (.izy d))
  | .sbcZpx d => (.sbc, .mem (.zpx d))
  | .incZpx d => (.inc, .mem (.zpx d))
  | .sed => (.sed, .imp)
  | .sbcAby a => (.sbc, .mem (.aby a))
  | .sbcAbx a => (.sbc, .mem (.abx a))
  | .incAbx a => (.inc, .mem (.abx a))

/-- The mnemonic (R53 column `mnemonic`). -/
def Instr.mnem (i : Instr) : Mnemonic := i.shape.1

/-- The operand form with its value (R52). -/
def Instr.operand (i : Instr) : Operand := i.shape.2

/-- The instruction of a mnemonic and an operand, where R53 lists the pairing; the other pairings of an
executor with a mode have no constructor. -/
def Instr.ofShape (mn : Mnemonic) (o : Operand) : Option Instr :=
  match mn with
  | .adc =>
    match o with
    | .mem (.izx d) => some (.adcIzx d)
    | .mem (.zp d) => some (.adcZp d)
    | .imm v => some (.adcImm v)
    | .mem (.abs a) => some (.adcAbs a)
    | .mem (.izy d) => some (.adcIzy d)
    | .mem (.zpx d) => some (.adcZpx d)
    | .mem (.aby a) => some (.adcAby a)
    | .mem (.abx a) => some (.adcAbx a)
    | _ => none
  | .and =>
    match o with
    | .mem (.izx d) => some (.andIzx d)
    | .mem (.zp d) => some (.andZp d)
    | .imm v => some (.andImm v)
    | .mem (.abs a) => some (.andAbs a)
    | .mem (.izy d) => some (.andIzy d)
    | .mem (.zpx d) => some (.andZpx d)
    | .mem (.aby a) => some (.andAby a)
    | .mem (.abx a) => some (.andAbx a)
    | _ => none
  | .asl =>
    match o with
    | .mem (.zp d) => some (.aslZp d)
    | .acc => some .aslAcc
    | .mem (.abs a) => some (.aslAbs a)
    | .mem (.zpx d) => some (.aslZpx d)
    | .mem (.abx a) => some (.aslAbx a)
    | _ => none
  | .bcc => match o with | .rel off => some (.bcc off) | _ => none
  | .bcs => match o with | .rel off => some (.bcs off) | _ => none
  | .beq => match o with | .rel off => some (.beq off) | _ => none
  | .bit =>
    match o with
    | .mem (.zp d) => some (.bitZp d)
    | .mem (.abs a) => some (.bitAbs a)
    | _ => none
  | .bmi => match o with | .rel off => some (.bmi off) | _ => none
  | .bne => match o with | .rel off => some (.bne off) | _ => none
  | .bpl => match o with | .rel off => some (.bpl off) | _ => none
  | .brk => match o with | .imp => some .brk | _ => none
  | .bvc => match o with | .rel off => some (.bvc off) | _ => none
  | .bvs => match o with | .rel off => some (.bvs off) | _ => none
  | .clc => match o with | .imp => some .clc | _ => none
  | .cld => match o with | .imp => some .cld | _ => none
  | .cli => match o with | .imp => some .cli | _ => none
  | .clv => match o with | .imp => some .clv | _ => none
  | .cmp =>
    match o with
    | .mem (.izx d) => some (.cmpIzx d)
    | .mem (.zp d) => some (.cmpZp d)
    | .imm v => some (.cmpImm v)
    | .mem (.abs a) => some (.cmpAbs a)
    | .mem (.izy d) => some (.cmpIzy d)
    | .mem (.zpx d) => some (.cmpZpx d)
    | .mem (.aby a) => some (.cmpAby a)
    | .mem (.abx a) => some (.cmpAbx a)
    | _ => none
  | .cpx =>
    match o with
    | .imm v => some (.cpxImm v)
    | .mem (.zp d) => some (.cpxZp d)
    | .mem (.abs a) => some (.cpxAbs a)
    | _ => none
  | .cpy =>
    match o with
    | .imm v => some (.cpyImm v)
    | .mem (.zp d) => some (.cpyZp d)
    | .mem (.abs a) => some (.cpyAbs a)
    | _ => none
  | .dec =>
    match o with
    | .mem (.zp d) => some (.decZp d)
    | .mem (.abs a) => some (.decAbs a)
    | .mem (.zpx d) => some (.decZpx d)
    | .mem (.abx a) => some (.decAbx a)
    | _ => none
  | .dex => match o with | .imp => some .dex | _ => none
  | .dey => match o with | .imp => some .dey | _ => none
  | .eor =>
    match o with
    | .mem (.izx d) => some (.eorIzx d)
    | .mem (.zp d) => some (.eorZp d)
    | .imm v => some (.eorImm v)
    | .mem (.abs a) => some (.eorAbs a)
    | .mem (.izy d) => some (.eorIzy d)
    | .mem (.zpx d) => some (.eorZpx d)
    | .mem (.aby a) => some (.eorAby a)
    | .mem (.abx a) => some (.eorAbx a)
    | _ => none
  | .inc =>
    match o with
    | .mem (.zp d) => some (.incZp d)
    | .mem (.abs a) => some (.incAbs a)
    | .mem (.zpx d) => some (.incZpx d)
    | .mem (.abx a) => some (.incAbx a)
    | _ => none
  | .inx => match o with | .imp => some .inx | _ => none
  | .iny => match o with | .imp => some .iny | _ => none
  | .jmp =>
    match o with
    | .target a => some (.jmpAbs a)
    | .ind a => some (.jmpInd a)
    | _ => none
  | .jsr => match o with | .target a => some (.jsrAbs a) | _ => none
  | .lda =>
    match o with
    | .mem (.izx d) => some (.ldaIzx d)
    | .mem (.zp d) => some (.ldaZp d)
    | .imm v => some (.ldaImm v)
    | .mem (.abs a) => some (.ldaAbs a)
    | .mem (.izy d) => some (.ldaIzy d)
    | .mem (.zpx d) => some (.ldaZpx d)
    | .mem (.aby a) => some (.ldaAby a)
    | .mem (.abx a) => some (.ldaAbx a)
    | _ => none
  | .ldx =>
    match o with
    | .imm v => some (.ldxImm v)
    | .mem (.zp d) => some (.ldxZp d)
    | .mem (.abs a) => some (.ldxAbs a)
    | .mem (.zpy d) => some (.ldxZpy d)
    | .mem (.aby a) => some (.ldxAby a)
    | _ => none
  | .ldy =>
    match o with
    | .imm v => some (.ldyImm v)
    | .mem (.zp d) => some (.ldyZp d)
    | .mem (.abs a) => some (.ldyAbs a)
    | .mem (.zpx d) => some (.ldyZpx d)
    | .mem (.abx a) => some (.ldyAbx a)
    | _ => none
  | .lsr =>
    match o with
    | .mem (.zp d) => some (.lsrZp d)
    | .acc => some .lsrAcc
    | .mem (.abs a) => some (.lsrAbs a)
    | .mem (.zpx d) => some (.lsrZpx d)
    | .mem (.abx a) => some (.lsrAbx a)
    | _ => none
  | .nop => match o with | .imp => some .nop | _ => none
  | .ora =>
    match o with
    | .mem (.izx d) => some (.oraIzx d)
    | .mem (.zp d) => some (.oraZp d)
    | .imm v => some (.oraImm v)
    | .mem (.abs a) => some (.oraAbs a)
    | .mem (.izy d) => some (.oraIzy d)
    | .mem (.zpx d) => some (.oraZpx d)
    | .mem (.aby a) => some (.oraAby a)
    | .mem (.abx a) => some (.oraAbx a)
    | _ => none
  | .pha => match o with | .imp => some .pha | _ => none
  | .php => match o with | .imp => some .php | _ => none
  | .pla => match o with | .imp => some .pla | _ => none
  | .plp => match o with | .imp => some .plp | _ => none
  | .rol =>
    match o with
    | .mem (.zp d) => some (.rolZp d)
    | .acc => some .rolAcc
    | .mem (.abs a) => some (.rolAbs a)
    | .mem (.zpx d) => some (.rolZpx d)
    | .mem (.abx a) => some (.rolAbx a)
    | _ => none
  | .ror =>
    match o with
    | .mem (.zp d) => some (.rorZp d)
    | .acc => some .rorAcc
    | .mem (.abs a) => some (.rorAbs a)
    | .mem (.zpx d) => some (.rorZpx d)
    | .mem (.abx a) => some (.rorAbx a)
    | _ => none
  | .rti => match o with | .imp => some .rti | _ => none
  | .rts => match o with | .imp => some .rts | _ => none
  | .sbc =>
    match o with
    | .mem (.izx d) => some (.sbcIzx d)
    | .mem (.zp d) => some (.sbcZp d)
    | .imm v => some (.sbcImm v)
    | .mem (.abs a) => some (.sbcAbs a)
    | .mem (.izy d) => some (.sbcIzy d)
    | .mem (.zpx d) => some (.sbcZpx d)
    | .mem (.aby a) => some (.sbcAby a)
    | .mem (.abx a) => some (.sbcAbx a)
    | _ => none
  | .sec => match o with | .imp => some .sec | _ => none
  | .sed => match o with | .imp => some .sed | _ => none
  | .sei => match o with | .imp => some .sei | _ => none
  | .sta =>
    match o with
    | .mem (.izx d) => some (.staIzx d)
    | .mem (.zp d) => some (.staZp d)
    | .mem (.abs a) => some (.staAbs a)
    | .mem (.izy d) => some (.staIzy d)
    | .mem (.zpx d) => some (.staZpx d)
    | .mem (.aby a) => some (.staAby a)
    | .mem (.abx a) => some (.staAbx a)
    | _ => none
  | .stx =>
    match o with
    | .mem (.zp d) => some (.stxZp d)
    | .mem (.abs a) => some (.stxAbs a)
    | .mem (.zpy d) => some (.stxZpy d)
    | _ => none
  | .sty =>
    match o with
    | .mem (.zp d) => some (.styZp d)
    | .mem (.abs a) => some (.styAbs a)
    | .mem (.zpx d) => some (.styZpx d)
    | _ => none
  | .tax => match o with | .imp => some .tax | _ => none
  | .tay => match o with | .imp => some .tay | _ => none
  | .tsx => match o with | .imp => some .tsx | _ => none
  | .txa => match o with | .imp => some .txa | _ => none
  | .txs => match o with | .imp => some .txs | _ => none
  | .tya => match o with | .imp => some .tya | _ => none

/-- The mode tag of an operand (R52); the target of JMP absolute and JSR is of mode `abs` (R82). -/
def Operand.mode : Operand → Mode
  | .imp => .imp | .acc => .acc | .imm _ => .imm | .rel _ => .rel | .target _ => .abs | .ind _ => .ind
  | .mem (.zp _) => .zp | .mem (.zpx _) => .zpx | .mem (.zpy _) => .zpy
  | .mem (.abs _) => .abs | .mem (.abx _) => .abx | .mem (.aby _) => .aby
  | .mem (.izx _) => .izx | .mem (.izy _) => .izy

/-- The format of R51 as a length: F1 is one byte, F2 two, F3 three. -/
def Mode.size : Mode → Nat
  | .imp | .acc => 1
  | .imm | .zp | .zpx | .zpy | .izx | .izy | .rel => 2
  | .abs | .abx | .aby | .ind => 3

/-- The mode tag of an instruction (R53 column `mode`). -/
def Instr.mode (i : Instr) : Mode := i.operand.mode

/-- The length in bytes of an instruction (R51, R53 column `size`). -/
def Instr.size (i : Instr) : Nat := i.mode.size

/-- The operand of a mnemonic and a mode, assembled from the operand bytes `ob0` and `ob1` of a record
(R52): a 16-bit operand has its high byte first, and that of JMP absolute and JSR is their target. -/
def Operand.assemble (mn : Mnemonic) (md : Mode) (b0 b1 : Byte) : Operand :=
  match md with
  | .imp => .imp
  | .acc => .acc
  | .imm => .imm b0
  | .rel => .rel b0
  | .zp => .mem (.zp b0)
  | .zpx => .mem (.zpx b0)
  | .zpy => .mem (.zpy b0)
  | .izx => .mem (.izx b0)
  | .izy => .mem (.izy b0)
  | .abx => .mem (.abx (word16 b0 b1))
  | .aby => .mem (.aby (word16 b0 b1))
  | .ind => .ind (word16 b0 b1)
  | .abs =>
    match mn with
    | .jmp | .jsr => .target (word16 b0 b1)
    | _ => .mem (.abs (word16 b0 b1))

/-- The `class` column of R53: served by the dispatch table, in it only when `INDEX_INCDEC` is true,
special-cased by the dispatcher, or the one opcode that faults. -/
inductive OpClass where
  | tbl
  | opt
  | cf
  | fault
  deriving DecidableEq, Repr

/-- The class of a mnemonic in a mode (R53, R72). -/
def Mnemonic.cls (mn : Mnemonic) (md : Mode) : OpClass :=
  match mn with
  | .adc | .and | .asl | .bit | .clc | .cld | .cli | .clv | .cmp | .cpx | .cpy | .dec | .eor | .inc
  | .lda | .ldx | .ldy | .lsr | .nop | .ora | .pha | .php | .pla | .plp | .rol | .ror | .sbc | .sec
  | .sed | .sei | .sta | .stx | .sty | .tax | .tay | .tsx | .txa | .txs | .tya => .tbl
  | .dex | .dey | .inx | .iny => .opt
  | .bcc | .bcs | .beq | .bmi | .bne | .bpl | .brk | .bvc | .bvs | .jsr | .rti | .rts => .cf
  | .jmp => if md = .ind then .fault else .cf

/-- The class of an instruction (R53, R72). -/
def Instr.cls (i : Instr) : OpClass := i.mnem.cls i.mode

/-- What a table-dispatched executor asks of its operand (R75): nothing, a byte (`read_operand`), an
effective address, or a place to read and write back (`write_dest`). -/
inductive OperandUse where
  | nothing
  | value
  | address
  | destination
  deriving DecidableEq, Repr

/-- What the executor of a table-dispatched mnemonic asks of its operand (files 41 to 44: `operand.ea` in
R103 to R105, R129 and R130, `read_operand` and `write_dest` in R140 to R143, `read_operand` alone in the
others that have an operand). -/
def Mnemonic.use (mn : Mnemonic) : OperandUse :=
  match mn with
  | .adc | .and | .bit | .cmp | .cpx | .cpy | .eor | .lda | .ldx | .ldy | .ora | .sbc => .value
  | .sta | .stx | .sty | .inc | .dec => .address
  | .asl | .lsr | .rol | .ror => .destination
  | _ => .nothing

/-- Whether the operand the resolver gives for a mode serves a use (R75): an implied operand has neither
value nor address, an immediate one has a value, the accumulator is read and written, a memory operand
is all of these; the modes `rel` and `ind` are no modes of the resolver's table. -/
def Mode.serves (md : Mode) (u : OperandUse) : Bool :=
  match md with
  | .zp | .zpx | .zpy | .abs | .abx | .aby | .izx | .izy => true
  | .imp => u = .nothing
  | .imm => u = .nothing || u = .value
  | .acc => u ≠ .address
  | .rel | .ind => false

/-- Whether a mnemonic can be paired with a mode: an executor of the table takes every mode whose operand
serves it (R75), a control-flow mnemonic the modes its own rule gives it (R76, R82, R87). A pairing that
does not exist leaves its opcode byte absent (R53, R54). -/
def Mnemonic.takes (mn : Mnemonic) (md : Mode) : Bool :=
  match mn with
  | .bcc | .bcs | .beq | .bmi | .bne | .bpl | .bvc | .bvs => md = .rel
  | .jmp => md = .abs || md = .ind
  | .jsr => md = .abs
  | .brk | .rti | .rts => md = .imp
  | _ => md.serves mn.use

/-- The rows of R53 whose opcode byte has the given high digit. -/
def publishedRows : Nat → OpcodeTable
  | 0 =>
    [⟨0x00, .brk, .imp, 0, false⟩,
     ⟨0x01, .ora, .izx, 6, false⟩,
     ⟨0x05, .ora, .zp, 3, false⟩,
     ⟨0x06, .asl, .zp, 5, false⟩,
     ⟨0x08, .php, .imp, 3, false⟩,
     ⟨0x09, .ora, .imm, 2, false⟩,
     ⟨0x0A, .asl, .acc, 2, false⟩,
     ⟨0x0D, .ora, .abs, 4, false⟩,
     ⟨0x0E, .asl, .abs, 6, false⟩]
  | 1 =>
    [⟨0x10, .bpl, .rel, 0, false⟩,
     ⟨0x11, .ora, .izy, 5, true⟩,
     ⟨0x15, .ora, .zpx, 4, false⟩,
     ⟨0x16, .asl, .zpx, 6, false⟩,
     ⟨0x18, .clc, .imp, 2, false⟩,
     ⟨0x19, .ora, .aby, 4, true⟩,
     ⟨0x1D, .ora, .abx, 4, true⟩,
     ⟨0x1E, .asl, .abx, 7, false⟩]
  | 2 =>
    [⟨0x20, .jsr, .abs, 0, false⟩,
     ⟨0x21, .and, .izx, 6, false⟩,
     ⟨0x24, .bit, .zp, 3, false⟩,
     ⟨0x25, .and, .zp, 3, false⟩,
     ⟨0x26, .rol, .zp, 5, false⟩,
     ⟨0x28, .plp, .imp, 4, false⟩,
     ⟨0x29, .and, .imm, 2, false⟩,
     ⟨0x2A, .rol, .acc, 2, false⟩,
     ⟨0x2C, .bit, .abs, 4, false⟩,
     ⟨0x2D, .and, .abs, 4, false⟩,
     ⟨0x2E, .rol, .abs, 6, false⟩]
  | 3 =>
    [⟨0x30, .bmi, .rel, 0, false⟩,
     ⟨0x31, .and, .izy, 5, true⟩,
     ⟨0x35, .and, .zpx, 4, false⟩,
     ⟨0x36, .rol, .zpx, 6, false⟩,
     ⟨0x38, .sec, .imp, 2, false⟩,
     ⟨0x39, .and, .aby, 4, true⟩,
     ⟨0x3D, .and, .abx, 4, true⟩,
     ⟨0x3E, .rol, .abx, 7, false⟩]
  | 4 =>
    [⟨0x40, .rti, .imp, 0, false⟩,
     ⟨0x41, .eor, .izx, 6, false⟩,
     ⟨0x45, .eor, .zp, 3, false⟩,
     ⟨0x46, .lsr, .zp, 5, false⟩,
     ⟨0x48, .pha, .imp, 3, false⟩,
     ⟨0x49, .eor, .imm, 2, false⟩,
     ⟨0x4A, .lsr, .acc, 2, false⟩,
     ⟨0x4C, .jmp, .abs, 0, false⟩,
     ⟨0x4D, .eor, .abs, 4, false⟩,
     ⟨0x4E, .lsr, .abs, 6, false⟩]
  | 5 =>
    [⟨0x50, .bvc, .rel, 0, false⟩,
     ⟨0x51, .eor, .izy, 5, true⟩,
     ⟨0x55, .eor, .zpx, 4, false⟩,
     ⟨0x56, .lsr, .zpx, 6, false⟩,
     ⟨0x58, .cli, .imp, 2, false⟩,
     ⟨0x59, .eor, .aby, 4, true⟩,
     ⟨0x5D, .eor, .abx, 4, true⟩,
     ⟨0x5E, .lsr, .abx, 7, false⟩]
  | 6 =>
    [⟨0x60, .rts, .imp, 0, false⟩,
     ⟨0x61, .adc, .izx, 6, false⟩,
     ⟨0x65, .adc, .zp, 3, false⟩,
     ⟨0x66, .ror, .zp, 5, false⟩,
     ⟨0x68, .pla, .imp, 4, false⟩,
     ⟨0x69, .adc, .imm, 2, false⟩,
     ⟨0x6A, .ror, .acc, 2, false⟩,
     ⟨0x6C, .jmp, .ind, 0, false⟩,
     ⟨0x6D, .adc, .abs, 4, false⟩,
     ⟨0x6E, .ror, .abs, 6, false⟩]
  | 7 =>
    [⟨0x70, .bvs, .rel, 0, false⟩,
     ⟨0x71, .adc, .izy, 5, true⟩,
     ⟨0x75, .adc, .zpx, 4, false⟩,
     ⟨0x76, .ror, .zpx, 6, false⟩,
     ⟨0x78, .sei, .imp, 2, false⟩,
     ⟨0x79, .adc, .aby, 4, true⟩,
     ⟨0x7D, .adc, .abx, 4, true⟩,
     ⟨0x7E, .ror, .abx, 7, false⟩]
  | 8 =>
    [⟨0x81, .sta, .izx, 6, false⟩,
     ⟨0x84, .sty, .zp, 3, false⟩,
     ⟨0x85, .sta, .zp, 3, false⟩,
     ⟨0x86, .stx, .zp, 3, false⟩,
     ⟨0x88, .dey, .imp, 2, false⟩,
     ⟨0x8A, .txa, .imp, 2, false⟩,
     ⟨0x8C, .sty, .abs, 4, false⟩,
     ⟨0x8D, .sta, .abs, 4, false⟩,
     ⟨0x8E, .stx, .abs, 4, false⟩]
  | 9 =>
    [⟨0x90, .bcc, .rel, 0, false⟩,
     ⟨0x91, .sta, .izy, 6, false⟩,
     ⟨0x94, .sty, .zpx, 4, false⟩,
     ⟨0x95, .sta, .zpx, 4, false⟩,
     ⟨0x96, .stx, .zpy, 4, false⟩,
     ⟨0x98, .tya, .imp, 2, false⟩,
     ⟨0x99, .sta, .aby, 5, false⟩,
     ⟨0x9A, .txs, .imp, 2, false⟩,
     ⟨0x9D, .sta, .abx, 5, false⟩]
  | 10 =>
    [⟨0xA0, .ldy, .imm, 2, false⟩,
     ⟨0xA1, .lda, .izx, 6, false⟩,
     ⟨0xA2, .ldx, .imm, 2, false⟩,
     ⟨0xA4, .ldy, .zp, 3, false⟩,
     ⟨0xA5, .lda, .zp, 3, false⟩,
     ⟨0xA6, .ldx, .zp, 3, false⟩,
     ⟨0xA8, .tay, .imp, 2, false⟩,
     ⟨0xA9, .lda, .imm, 2, false⟩,
     ⟨0xAA, .tax, .imp, 2, false⟩,
     ⟨0xAC, .ldy, .abs, 4, false⟩,
     ⟨0xAD, .lda, .abs, 4, false⟩,
     ⟨0xAE, .ldx, .abs, 4, false⟩]
  | 11 =>
    [⟨0xB0, .bcs, .rel, 0, false⟩,
     ⟨0xB1, .lda, .izy, 5, true⟩,
     ⟨0xB4, .ldy, .zpx, 4, false⟩,
     ⟨0xB5, .lda, .zpx, 4, false⟩,
     ⟨0xB6, .ldx, .zpy, 4, false⟩,
     ⟨0xB8, .clv, .imp, 2, false⟩,
     ⟨0xB9, .lda, .aby, 4, true⟩,
     ⟨0xBA, .tsx, .imp, 2, false⟩,
     ⟨0xBC, .ldy, .abx, 4, true⟩,
     ⟨0xBD, .lda, .abx, 4, true⟩,
     ⟨0xBE, .ldx, .aby, 4, true⟩]
  | 12 =>
    [⟨0xC0, .cpy, .imm, 2, false⟩,
     ⟨0xC1, .cmp, .izx, 6, false⟩,
     ⟨0xC4, .cpy, .zp, 3, false⟩,
     ⟨0xC5, .cmp, .zp, 3, false⟩,
     ⟨0xC6, .dec, .zp, 5, false⟩,
     ⟨0xC8, .iny, .imp, 2, false⟩,
     ⟨0xC9, .cmp, .imm, 2, false⟩,
     ⟨0xCA, .dex, .imp, 2, false⟩,
     ⟨0xCC, .cpy, .abs, 4, false⟩,
     ⟨0xCD, .cmp, .abs, 4, false⟩,
     ⟨0xCE, .dec, .abs, 6, false⟩]
  | 13 =>
    [⟨0xD0, .bne, .rel, 0, false⟩,
     ⟨0xD1, .cmp, .izy, 5, true⟩,
     ⟨0xD5, .cmp, .zpx, 4, false⟩,
     ⟨0xD6, .dec, .zpx, 6, false⟩,
     ⟨0xD8, .cld, .imp, 2, false⟩,
     ⟨0xD9, .cmp, .aby, 4, true⟩,
     ⟨0xDD, .cmp, .abx, 4, true⟩,
     ⟨0xDE, .dec, .abx, 7, false⟩]
  | 14 =>
    [⟨0xE0, .cpx, .imm, 2, false⟩,
     ⟨0xE1, .sbc, .izx, 6, false⟩,
     ⟨0xE4, .cpx, .zp, 3, false⟩,
     ⟨0xE5, .sbc, .zp, 3, false⟩,
     ⟨0xE6, .inc, .zp, 5, false⟩,
     ⟨0xE8, .inx, .imp, 2, false⟩,
     ⟨0xE9, .sbc, .imm, 2, false⟩,
     ⟨0xEA, .nop, .imp, 2, false⟩,
     ⟨0xEC, .cpx, .abs, 4, false⟩,
     ⟨0xED, .sbc, .abs, 4, false⟩,
     ⟨0xEE, .inc, .abs, 6, false⟩]
  | 15 =>
    [⟨0xF0, .beq, .rel, 0, false⟩,
     ⟨0xF1, .sbc, .izy, 5, true⟩,
     ⟨0xF5, .sbc, .zpx, 4, false⟩,
     ⟨0xF6, .inc, .zpx, 6, false⟩,
     ⟨0xF8, .sed, .imp, 2, false⟩,
     ⟨0xF9, .sbc, .aby, 4, true⟩,
     ⟨0xFD, .sbc, .abx, 4, true⟩,
     ⟨0xFE, .inc, .abx, 7, false⟩]
  | _ => []

/-- `OPCODE_TABLE` as published: the table of R53 (`spec/opcode_table.json`). The columns `cyc` and `pcs`
of a control-flow opcode, and of `0x6C`, are never read; `0` and `false` stand there. -/
def publishedTable : OpcodeTable :=
  publishedRows 0 ++ (publishedRows 1 ++ (publishedRows 2 ++ (publishedRows 3 ++
  (publishedRows 4 ++ (publishedRows 5 ++ (publishedRows 6 ++ (publishedRows 7 ++
  (publishedRows 8 ++ (publishedRows 9 ++ (publishedRows 10 ++ (publishedRows 11 ++
  (publishedRows 12 ++ (publishedRows 13 ++ (publishedRows 14 ++ publishedRows 15))))))))))))))

/-- The `OPCODE_TABLE` of a configuration (R3). -/
def Config.table (cfg : Config) : OpcodeTable :=
  match cfg.opcodeTable with
  | none => publishedTable
  | some t => t

/-- The row an opcode byte selects: match = op, mask = `0xFF` (R53); none where the table lacks the byte
(R54), or gives it a pairing that does not exist. -/
def OpcodeTable.rowAt (t : OpcodeTable) (op : Byte) : Option TableRow :=
  t.find? fun r => r.op == op && r.mnem.takes r.mode

/-- The first row of a mnemonic in a mode; none where the table lacks the pairing. -/
def OpcodeTable.rowOf (t : OpcodeTable) (mn : Mnemonic) (md : Mode) : Option TableRow :=
  t.find? fun r => r.mnem == mn && r.mode == md

/-- The table has the instruction. -/
def OpcodeTable.has (t : OpcodeTable) (i : Instr) : Bool := (t.rowOf i.mnem i.mode).isSome

/-- The opcode byte of a row (R53 column `op`); `0x00` stands for that of a pairing the table lacks. -/
def rowByte (row : Option TableRow) : Byte :=
  match row with
  | some r => r.op
  | none => 0#8

/-- `BASE_CYCLES` of a row (R89; R53 column `cyc`); 0 stands for that of a pairing the table lacks. -/
def rowCycles (row : Option TableRow) : Nat :=
  match row with
  | some r => r.cyc
  | none => 0

/-- `PAGE_SENSITIVE` of a row (R89; R53 column `pcs`); false for a pairing the table lacks. -/
def rowSensitive (row : Option TableRow) : Bool :=
  match row with
  | some r => r.pcs
  | none => false

/-- The opcode byte an instruction is encoded with: that of the first row it has. -/
def OpcodeTable.opByte (t : OpcodeTable) (i : Instr) : Byte := rowByte (t.rowOf i.mnem i.mode)

/-- The base cycle cost in the first row an instruction has. -/
def OpcodeTable.baseCycles (t : OpcodeTable) (i : Instr) : Nat := rowCycles (t.rowOf i.mnem i.mode)

/-- Whether the first row an instruction has is page-cross-sensitive. -/
def OpcodeTable.pageSensitive (t : OpcodeTable) (i : Instr) : Bool :=
  rowSensitive (t.rowOf i.mnem i.mode)

/-- `LEN` (R60): the length of the mode an opcode byte selects, and 1 for a byte the table lacks
(decision D22). -/
def OpcodeTable.lengthOf (t : OpcodeTable) (op : Byte) : Nat :=
  match t.rowAt op with
  | some r => r.mode.size
  | none => 1

/-- A table is a map from opcode bytes: no byte stands in two rows. -/
def OpcodeTable.ok : OpcodeTable → Bool
  | [] => true
  | r :: rest => rest.all (fun q => q.op != r.op) && OpcodeTable.ok rest

end Sys2Proof
end

