-- ==== Sys2Proof/WellFormed.lean ====
section
/-! DEFINITION. Well-formed Instruction records (30_encoding.md R59). A term of `Instr` carries only
operands of the width its format gives them, so every one of them is well formed. -/

namespace Sys2Proof

/-- R59 (a): the size is the one the opcode table gives the opcode byte; for a byte not in the table,
any size from 1 to 3. -/
def Record.sizeOk (t : OpcodeTable) (r : Record) : Bool :=
  match t.rowAt r.opCode with
  | some row => r.size == row.mode.size
  | none => decide (1 ≤ r.size) && decide (r.size ≤ 3)

/-- R59 (b): unused operand bytes are `0x00`. -/
def Record.paddingOk (r : Record) : Bool :=
  match r.size with
  | 1 => r.ob0 == 0#8 && r.ob1 == 0#8
  | 2 => r.ob1 == 0#8
  | _ => true

/-- A well-formed record (R59). -/
def Record.wf (t : OpcodeTable) (r : Record) : Bool := r.sizeOk t && r.paddingOk

end Sys2Proof
end

