-- ==== Sys2Proof/Decode.lean ====
section
/-! DEFINITION. The decoder of records and of byte streams, the encoder, and the record's 26-bit
packing (30_encoding.md R50 to R52, R57, R59, R60). The opcode table is an argument of all but the
packing (00_scope.md R3). -/

namespace Sys2Proof

open Sys2Proof.Machine

/-- Why a record or a byte stream is no instruction. -/
inductive DecodeError where
  /-- The opcode byte is not in the opcode table (R54). -/
  | unknownOpcode (op : Byte)
  /-- The record has the wrong size or a non-zero unused operand byte (R59, U11). -/
  | illFormed
  /-- The table gives the byte a pairing of an executor and a mode that R53 does not list: the mnemonic
  and the operand. `Instr` has no constructor for it; the transaction runs it all the same. -/
  | unlisted (mn : Mnemonic) (o : Operand)
  /-- The byte stream ends inside the instruction. -/
  | truncated
  deriving DecidableEq, Repr

/-- The instruction a record stands for (R52, R53). The opcode byte is looked up first: whether it is
unknown depends on that byte alone (R191). -/
def decodeRecord (t : OpcodeTable) (r : Record) : Except DecodeError Instr :=
  match t.rowAt r.opCode with
  | none => .error (.unknownOpcode r.opCode)
  | some row =>
    if r.wf t then
      let o := Operand.assemble row.mnem row.mode r.ob0 r.ob1
      match Instr.ofShape row.mnem o with
      | some i => .ok i
      | none => .error (.unlisted row.mnem o)
    else .error .illFormed

/-- The record the reference front-end makes of an opcode byte and the two bytes after it (R60): the
bytes the length does not cover are left out, and a three-byte instruction's operand bytes are
swapped, the high byte first. -/
def assemble (t : OpcodeTable) (op b1 b2 : Byte) : Record :=
  match t.lengthOf op with
  | 1 => ⟨op, 0#8, 0#8, 1⟩
  | 2 => ⟨op, b1, 0#8, 2⟩
  | _ => ⟨op, b2, b1, 3⟩

/-- The first instruction of a byte stream in memory order, and the bytes after it (R51, R57). -/
def decode (t : OpcodeTable) (bytes : List Byte) : Except DecodeError (Instr × List Byte) :=
  match bytes with
  | [] => .error .truncated
  | op :: rest =>
    match t.lengthOf op, rest with
    | 1, rest => (decodeRecord t (assemble t op 0#8 0#8)).map fun i => (i, rest)
    | 2, b1 :: rest => (decodeRecord t (assemble t op b1 0#8)).map fun i => (i, rest)
    | 3, b1 :: b2 :: rest => (decodeRecord t (assemble t op b1 b2)).map fun i => (i, rest)
    | _, _ => .error .truncated

/-- The operand bytes `ob0` and `ob1` of a record (R51, R52): unused bytes are `0x00`, a 16-bit
operand has its high byte first. -/
def Operand.bytes : Operand → Byte × Byte
  | .imp => (0#8, 0#8)
  | .acc => (0#8, 0#8)
  | .imm v => (v, 0#8)
  | .rel off => (off, 0#8)
  | .target a => (hi8 a, lo8 a)
  | .ind a => (hi8 a, lo8 a)
  | .mem (.zp d) => (d, 0#8)
  | .mem (.zpx d) => (d, 0#8)
  | .mem (.zpy d) => (d, 0#8)
  | .mem (.abs a) => (hi8 a, lo8 a)
  | .mem (.abx a) => (hi8 a, lo8 a)
  | .mem (.aby a) => (hi8 a, lo8 a)
  | .mem (.izx d) => (d, 0#8)
  | .mem (.izy d) => (d, 0#8)

/-- The record of an instruction under an opcode byte (R50, R51). -/
def Instr.record (i : Instr) (op : Byte) : Record :=
  ⟨op, i.operand.bytes.1, i.operand.bytes.2, i.size⟩

/-- The record of an instruction the table has (R50, R51), under the first opcode byte it gives it. -/
def encodeRecord (t : OpcodeTable) (i : Instr) : Record := i.record (t.opByte i)

/-- A record as the bytes in memory (R51): a 16-bit operand has its low byte first there. -/
def Record.stream (r : Record) : List Byte :=
  match r.size with
  | 1 => [r.opCode]
  | 2 => [r.opCode, r.ob0]
  | _ => [r.opCode, r.ob1, r.ob0]

/-- The bytes, in memory order, of an instruction the table has. -/
def encode (t : OpcodeTable) (i : Instr) : List Byte := (encodeRecord t i).stream

/-- The record as one 26-bit word, `size` the top two bits, then `op_code`, `ob0`, `ob1` (R51,
decision D16). -/
def Record.pack (r : Record) : BitVec 26 :=
  BitVec.ofNat 2 r.size ++ r.opCode ++ r.ob0 ++ r.ob1

/-- The record a 26-bit word packs (R51): `ob1` bits 7:0, `ob0` bits 15:8, `op_code` bits 23:16, `size`
bits 25:24. -/
def unpackRecord (w : BitVec 26) : Record :=
  ⟨w.extractLsb' 16 8, w.extractLsb' 8 8, w.extractLsb' 0 8, (w.extractLsb' 24 2).toNat⟩

/-- The three bytes, in memory order, of an instruction whose bits are `w` as the opcode table numbers
them; the bits from `nbits` on are 0. -/
def wordBytes (nbits w : Nat) : Byte × Byte × Byte :=
  let v := w % 2 ^ nbits
  (BitVec.ofNat 8 v, BitVec.ofNat 8 (v / 0x100), BitVec.ofNat 8 (v / 0x10000))

/-- The instruction the decoder reads, with the published table, from an instruction whose bits are `w`. -/
def decodeTableWord (nbits w : Nat) : Option Instr :=
  match wordBytes nbits w with
  | (b0, b1, b2) =>
    match decode publishedTable [b0, b1, b2] with
    | .ok (i, _) => some i
    | .error _ => none

end Sys2Proof
end

