-- ==== Sys2Proof/Machine/ColdBoot.lean ====
section
/-! DEFINITION. The values cold boot takes from the spec's parameters (00_scope.md R3). -/

namespace Sys2Proof.Machine

/-- `MEM_INIT` (R3, decision D10): what a byte of memory nothing has written reads as.
DESIGN CHOICE (log entry 3, unsafe): the source is silent, the spec's default is `0x00`. -/
def memInit : Byte := 0#8

/-- The default of `FLAG_POS` (R3, decision D2; log entry 4). -/
def publishedFlagPos : FlagPos where
  c := 0
  z := 1
  i := 2
  d := 3
  b := 4
  u := 5
  v := 6
  n := 7

/-- The parameters at cold boot: the defaults of R3 (log entries 1, 2, 4 to 7 and 21). -/
def coldConfig : Config where
  flagPos := publishedFlagPos
  opcodeTable := none
  indexIncdec := false
  sbcVComplement := true
  cycleWidth := none

end Sys2Proof.Machine
end

