-- ==== Sys2Proof/Machine/State.lean ====
section
/-! DEFINITION. The state aggregate (10_state.md R10), its cold-boot value (R19, R210), and the reasons
a step can stop (60_exceptions.md R190). -/

namespace Sys2Proof.Machine

/-- The six flags of the flag_status_register (R14). Bits 4 and 5 of the encoded status byte are not
state (R15, R22). -/
structure Flags where
  /-- carry -/
  c : Bool
  /-- zero -/
  z : Bool
  /-- interrupt-disable -/
  i : Bool
  /-- decimal -/
  d : Bool
  /-- overflow -/
  v : Bool
  /-- negative -/
  n : Bool
  deriving DecidableEq, Repr

/-- The 65536 bytes of memory (R30), as (address, byte) pairs in the canonical form `Memory.wf`. -/
abbrev Memory := List Host.Cell

/-- The state aggregate (R10), and the parameters the spec leaves open. -/
structure State where
  /-- the accumulator `A` (R11) -/
  a : Byte
  /-- the index register `X` (R11) -/
  x : Byte
  /-- the index register `Y` (R11) -/
  y : Byte
  /-- the stack pointer `SP`, an index into the stack page (R12) -/
  sp : Byte
  /-- the program counter (R13) -/
  pc : Addr
  /-- the flags `C Z I D V N` (R14) -/
  flags : Flags
  /-- the deferred latch `PEND` (R17) -/
  pend : Option Bool
  /-- the cycle counter `CYC` (R16); its width is `CYCLE_WIDTH` (decision D11; log entry 7) -/
  cyc : Nat
  /-- the memory `M` (R30) -/
  mem : Memory
  /-- the model's own field: the opcode byte `ins.op_code` of the transaction in progress (R50, R70), by
  which its costs are read (R89); `none` between transactions (log entry 22) -/
  op : Option Byte
  /-- the model's own field: the parameters of R3 left open; no step writes it (log entry 21) -/
  config : Config
  deriving DecidableEq, Repr

/-- The two fatal faults (R190). The state does not survive either (R193); both are the spec's own, so
stopping is safe. -/
inductive Fault where
  /-- `UnknownOpcode(op)` (R74, R191): raised by the dispatcher (`execute`) for a byte absent from the
  opcode table, and by the meanings of INX, INY, DEX and DEY, and by `execPairing`, when `INDEX_INCDEC`
  is false (R56) or a pairing does not exist (R54). Safe. -/
  | unknownOpcode (op : Byte)
  /-- `UnsupportedAddressingMode(op)` (R180, R192): raised by JMP indirect, opcode
  `0x6C`. Safe. -/
  | unsupportedAddressingMode (op : Byte)
  deriving DecidableEq, Repr

/-- What the model turns away at its interface. -/
inductive Refusal where
  /-- An instruction that has no meaning in this model yet, by its mnemonic. Raised by no arm. Safe. -/
  | notModelled (mnemonic : String)
  /-- An Instruction record that is not well formed (R59, U11), raised by `execute` only; the reference
  front-end makes no such record, so no step raises it. Safe (log entry 10). -/
  | illFormedRecord
  deriving DecidableEq, Repr

/-- The outcome of a transaction (R70). -/
abbrev Result := Host.Outcome State Fault Refusal

/-- Cold boot (R19, R210): all registers zero, stack pointer `0xFF`, program counter 0, cycle 0, no
pending flag change; memory holds what `MEM_INIT` says, here the image `m`. -/
def State.coldBoot (cfg : Config) (m : Memory) : State where
  a := 0x00
  x := 0x00
  y := 0x00
  sp := 0xFF
  pc := 0x0000
  flags := ⟨false, false, false, false, false, false⟩
  pend := none
  cyc := 0
  mem := m
  op := none
  config := cfg

/-- The machine right after reset: cold boot with the default parameters of R3 and nothing listed in
memory. -/
def State.reset : State := State.coldBoot coldConfig []

end Sys2Proof.Machine
end

