-- ==== Sys2Proof/Machine/Flags.lean ====
section
/-! DEFINITION. Every flag computation (40_dispatch_and_addressing.md R91, 42_arithmetic_logic.md) and
the encoding of the status byte (44_flags_stack_nop.md R160, R161). -/

namespace Sys2Proof.Machine

/-- `setZN(v)` (R91): `Z <- (v == 0); N <- v[7]`. -/
def Flags.setZN (f : Flags) (v : Byte) : Flags :=
  { f with z := v == 0#8, n := v.getLsbD 7 }

/-- The sum ADC forms: `A + m + C`, 0 to 511 (R120). -/
def carrySum (a m : Byte) (c : Bool) : Nat := a.toNat + m.toNat + c.toNat

/-- The overflow formula of R120: `((r ^ A) & (r ^ m) & 0x80) != 0`. -/
def overflow (r a m : Byte) : Bool := (r ^^^ a) &&& (r ^^^ m) &&& 0x80#8 != 0#8

/-- The flags of an addition with carry (R120, R121) of `a` and `m`: C from the sum, Z and N from the
result, and V from the formula taken with the byte `vop`. -/
def Flags.afterSum (f : Flags) (a m vop : Byte) : Flags :=
  let sum := carrySum a m f.c
  let r := BitVec.ofNat 8 sum
  { f with c := decide (sum > 255), z := r == 0#8, v := overflow r a vop, n := r.getLsbD 7 }

/-- The flags of a compare of `reg` with `m` (R126 to R128). -/
def Flags.afterCompare (f : Flags) (reg m : Byte) : Flags :=
  { f with c := decide (reg.toNat ≥ m.toNat), z := reg == m, n := (reg - m).getLsbD 7 }

/-- The flags of BIT (R125): Z from `A & m`, V and N from bits 6 and 7 of `m`. -/
def Flags.afterBit (f : Flags) (a m : Byte) : Flags :=
  { f with z := a &&& m == 0#8, v := m.getLsbD 6, n := m.getLsbD 7 }

/-- The flags of a shift or rotate with result `r` and `out` the bit shifted out (R140 to R143). -/
def Flags.afterShift (f : Flags) (r : Byte) (out : Bool) : Flags :=
  { f.setZN r with c := out }

/-- The eight positions are those of eight different bits. -/
def distinctPositions (p : FlagPos) : Bool := decide [p.c, p.z, p.i, p.d, p.b, p.u, p.v, p.n].Nodup

/-- `encode_status()` (R160), with the flags at the positions of `FLAG_POS`: the two unused bits are 1. -/
def encodeStatus (p : FlagPos) (f : Flags) : Byte :=
  bitAt f.n p.n ||| bitAt f.v p.v ||| bitAt true p.u ||| bitAt true p.b |||
    bitAt f.d p.d ||| bitAt f.i p.i ||| bitAt f.z p.z ||| bitAt f.c p.c

/-- The flags `decode_status` writes at once in both of its forms (R161): all but `I`. -/
def decodeExceptI (p : FlagPos) (f : Flags) (b : Byte) : Flags :=
  { f with
    c := b.getLsbD p.c, z := b.getLsbD p.z, d := b.getLsbD p.d,
    v := b.getLsbD p.v, n := b.getLsbD p.n }

/-- `decode_status(b, deferred = false)` (R161): `I` is written at once as well. -/
def decodeStatus (p : FlagPos) (f : Flags) (b : Byte) : Flags :=
  { decodeExceptI p f b with i := b.getLsbD p.i }

end Sys2Proof.Machine
end

