-- ==== Sys2Proof/Machine/Ops.lean ====
section
/-! DEFINITION. The named operations over registers, memory and stack; the apply step of the deferred
latch; the BRK trap entry and its return; the program counter epilogue. -/

namespace Sys2Proof.Machine

/-- The byte at an address: what nothing lists reads as `memInit`. -/
def Memory.read : Memory → Nat → Byte
  | [], _ => memInit
  | (k, v) :: rest, a => if k = a then v else Memory.read rest a

/-- The memory without the cells at an address. -/
def Memory.erase : Memory → Nat → Memory
  | [], _ => []
  | (k, v) :: rest, a => if k = a then Memory.erase rest a else (k, v) :: Memory.erase rest a

/-- The memory with a cell put before the first one of a higher address. -/
def Memory.insert : Memory → Nat → Byte → Memory
  | [], a, b => [(a, b)]
  | (k, v) :: rest, a, b =>
    if a < k then (a, b) :: (k, v) :: rest else (k, v) :: Memory.insert rest a b

/-- Store one byte, keeping the canonical form: a byte equal to what an unlisted address reads as is
not listed. -/
def Memory.write (m : Memory) (a : Nat) (b : Byte) : Memory :=
  if b = memInit then Memory.erase m a else Memory.insert (Memory.erase m a) a b

/-- The canonical form from an address on: addresses rise strictly from `lo`, each is below 65536
(R30), and no byte is the one an unlisted address reads as. -/
def Memory.wfFrom : Nat → Memory → Bool
  | _, [] => true
  | lo, (k, v) :: rest =>
    decide (lo ≤ k) && decide (k < 65536) && v != memInit && Memory.wfFrom (k + 1) rest

/-- The canonical form of memory. -/
def Memory.wf (m : Memory) : Bool := Memory.wfFrom 0 m

/-- `A <- v`. -/
def State.setA (s : State) (v : Byte) : State := { s with a := v }
/-- `X <- v`. -/
def State.setX (s : State) (v : Byte) : State := { s with x := v }
/-- `Y <- v`. -/
def State.setY (s : State) (v : Byte) : State := { s with y := v }
/-- `SP <- v`. -/
def State.setSp (s : State) (v : Byte) : State := { s with sp := v }
/-- `pc <- v`. -/
def State.setPc (s : State) (v : Addr) : State := { s with pc := v }
/-- The six flags at once. -/
def State.setFlags (s : State) (f : Flags) : State := { s with flags := f }
/-- `PEND <- p`. -/
def State.setPend (s : State) (p : Option Bool) : State := { s with pend := p }
/-- The count `k` cycles after `c`, for a counter of `CYCLE_WIDTH` (R3, R16): modulo `2 ^ w` where it has
`w` bits. -/
def addCycles (width : Option Nat) (c k : Nat) : Nat :=
  match width with
  | none => c + k
  | some w => (c + k) % 2 ^ w

/-- `CYC <- CYC + k` (R16). -/
def State.charge (s : State) (k : Nat) : State :=
  { s with cyc := addCycles s.config.cycleWidth s.cyc k }
/-- The opcode byte of the transaction in progress. -/
def State.setOp (s : State) (op : Option Byte) : State := { s with op := op }
/-- Replace the memory. -/
def State.setMem (s : State) (m : Memory) : State := { s with mem := m }

/-- `MemRead(a, 1)` (R35). Every address exists and no read has a side effect. -/
def State.load (s : State) (a : Addr) : Byte := s.mem.read a.toNat

/-- `MemWrite(a, 1, v)` (R35). A write to any address succeeds. -/
def State.store (s : State) (a : Addr) (v : Byte) : State := s.setMem (s.mem.write a.toNat v)

/-- The address in the stack page that `SP` names: `0x0100 + SP` (R12). -/
def stackAddr (sp : Byte) : Addr := word16 0x01#8 sp

/-- `push(b)` (R157): store at the old `SP`, then decrement it. -/
def State.push (s : State) (b : Byte) : State :=
  { s with mem := s.mem.write (stackAddr s.sp).toNat b, sp := s.sp - 1#8 }

/-- The state `pop()` leaves (R158): `SP` incremented. -/
def State.popped (s : State) : State := s.setSp (s.sp + 1#8)

/-- The byte `pop()` returns (R158): the one at the incremented `SP`. -/
def State.top (s : State) : Byte := s.load (stackAddr (s.sp + 1#8))

/-- `push16(w)` (R159): the high byte, then the low byte. -/
def State.push16 (s : State) (w : Addr) : State := (s.push (hi8 w)).push (lo8 w)

/-- The state `pop16()` leaves (R159). -/
def State.popped16 (s : State) : State := s.popped.popped

/-- The value `pop16()` returns (R159): low byte popped first, then the high byte. -/
def State.top16 (s : State) : Addr := word16 s.popped.top s.top

/-- The apply step (R71): a pending change of `I` is applied and the latch cleared, first thing in
every transaction. -/
def applyPending (s : State) : State :=
  match s.pend with
  | some b => (s.setFlags { s.flags with i := b }).setPend none
  | none => s

/-- The address BRK sends the program counter to (R2, R34): a literal, not a vector. -/
def trapAddr : Addr := 0xFFFE#16

/-- Taking the only trap (R183, R197): push `pc + 2` and the status byte, set `I`, go to `0xFFFE`. -/
def takeTrap (s : State) : State :=
  let pushed := (s.push16 (s.pc + 2#16)).push (encodeStatus s.config.flagPos s.flags)
  { s with
    mem := pushed.mem
    sp := pushed.sp
    flags := { s.flags with i := true }
    pc := trapAddr
    cyc := addCycles s.config.cycleWidth s.cyc 7 }

/-- Returning from it (R184, R198): pop the status byte, writing all six flags at once, then `pc`. -/
def returnFromTrap (s : State) : State :=
  let flagged := s.popped.setFlags (decodeStatus s.config.flagPos s.flags s.top)
  (flagged.popped16.setPc flagged.top16).charge 6

/-- The row of `OPCODE_TABLE` a transaction reads its costs from: the row of the opcode byte in progress
(R70 step 3, R89); where none is in progress, the first row of the pairing (log entry 22). -/
def State.row (s : State) (mn : Mnemonic) (md : Mode) : Option TableRow :=
  match s.op with
  | some op => s.config.table.rowAt op
  | none => s.config.table.rowOf mn md

/-- `ins.op_code` as a fault carries it: the byte in progress; where none is, that of the first row. -/
def State.opByte (s : State) (mn : Mnemonic) (md : Mode) : Byte :=
  match s.op with
  | some op => op
  | none => rowByte (s.config.table.rowOf mn md)

/-- What a table-dispatched opcode ends with (R70 step 3, R89, R90): `CYC` rises by `BASE_CYCLES`, and by
one more when the opcode is page-cross-sensitive and the access crossed a page; `pc` moves past the
instruction. -/
def endTable (mn : Mnemonic) (md : Mode) (crossed : Bool) (s : State) : State :=
  let row := s.row mn md
  (s.charge (rowCycles row + (rowSensitive row && crossed).toNat)).setPc
    (s.pc + BitVec.ofNat 16 md.size)

/-- The end of a table-dispatched instruction. -/
def epilogue (i : Instr) (crossed : Bool) (s : State) : State := endTable i.mnem i.mode crossed s

end Sys2Proof.Machine
end

