-- ==== Sys2Proof/Machine/Operands.lean ====
section
/-! DEFINITION. The addressing-mode resolver (40_dispatch_and_addressing.md R75 to R88) and the shapes
of the table-dispatched instructions over it (R70 step 3, R92). -/

namespace Sys2Proof.Machine

/-- A 16-bit pointer in the zero page (R31 face 1, R32): low byte at `p`, high byte at
`(p + 1) mod 256`. -/
def State.zpPointer (s : State) (p : Byte) : Addr :=
  word16 (s.load (zext16 (p + 1#8))) (s.load (zext16 p))

/-- The effective address of a memory mode (R79 to R86, one line each). -/
def effectiveAddr (m : MemMode) (s : State) : Addr :=
  match m with
  | .zp d => zext16 d
  | .zpx d => zext16 (d + s.x)
  | .zpy d => zext16 (d + s.y)
  | .abs a => a
  | .abx a => a + zext16 s.x
  | .aby a => a + zext16 s.y
  | .izx d => s.zpPointer (d + s.x)
  | .izy d => s.zpPointer d + zext16 s.y

/-- Whether adding the index changes the high byte of the base address (R88). -/
def crosses (base : Addr) (index : Byte) : Bool := hi8 base != hi8 (base + zext16 index)

/-- `crossed` of a memory mode (R88): defined for `abx`, `aby` and `izy`, false for the others. -/
def pageCrossed (m : MemMode) (s : State) : Bool :=
  match m with
  | .zp _ => false
  | .zpx _ => false
  | .zpy _ => false
  | .abs _ => false
  | .abx a => crosses a s.x
  | .aby a => crosses a s.y
  | .izx _ => false
  | .izy d => crosses (s.zpPointer d) s.y

/-- The address an operand resolves to, where it is of kind `Mem` (R75). -/
def operandAddr (o : Operand) (s : State) : Option Addr :=
  match o with
  | .mem m => some (effectiveAddr m s)
  | .imp => none
  | .acc => none
  | .imm _ => none
  | .rel _ => none
  | .target _ => none
  | .ind _ => none

/-- `read_operand` (R75): the immediate byte, the byte at the effective address, or `A`; an operand of
kind `None` has no value. -/
def operandValue (o : Operand) (s : State) : Option Byte :=
  match o with
  | .imm v => some v
  | .mem m => some (s.load (effectiveAddr m s))
  | .acc => some s.a
  | .imp => none
  | .rel _ => none
  | .target _ => none
  | .ind _ => none

/-- `operand.crossed` (R75). -/
def operandCrossed (o : Operand) (s : State) : Bool :=
  match o with
  | .mem m => pageCrossed m s
  | .imp => false
  | .acc => false
  | .imm _ => false
  | .rel _ => false
  | .target _ => false
  | .ind _ => false

/-- An implied instruction of the table: the executor, then the epilogue (R70 step 3, R76). -/
def implied (i : Instr) (f : State → State) (s : State) : Result :=
  .next (epilogue i false (f s))

/-- An instruction that consumes an immediate byte (R78). -/
def readImm (i : Instr) (f : Byte → State → State) (v : Byte) (s : State) : Result :=
  .next (epilogue i false (f v s))

/-- An instruction that consumes the byte at its effective address: one read (R33). -/
def readMem (i : Instr) (f : Byte → State → State) (m : MemMode) (s : State) : Result :=
  .next (epilogue i (pageCrossed m s) (f (s.load (effectiveAddr m s)) s))

/-- A store of a register to its effective address: one write, no read of the address (R33). -/
def storeMem (i : Instr) (v : Byte) (m : MemMode) (s : State) : Result :=
  .next (epilogue i (pageCrossed m s) (s.store (effectiveAddr m s) v))

/-- A read-modify-write instruction on the accumulator (R77, R92): `f` gives the result and the flags
from the value and the flags before. -/
def rmwAcc (i : Instr) (f : Byte → Flags → Byte × Flags) (s : State) : Result :=
  let out := f s.a s.flags
  .next (epilogue i false ((s.setA out.1).setFlags out.2))

/-- A read-modify-write instruction on memory (R92, R93): one read, then one write, of one address. -/
def rmwMem (i : Instr) (f : Byte → Flags → Byte × Flags) (m : MemMode) (s : State) : Result :=
  let out := f (s.load (effectiveAddr m s)) s.flags
  .next (epilogue i (pageCrossed m s) ((s.store (effectiveAddr m s) out.1).setFlags out.2))

/-- An opcode the table holds only when `INDEX_INCDEC` is true (R56): otherwise it is absent and raises
`UnknownOpcode` (R54). -/
def whenIndexIncdec (i : Instr) (f : State → State) (s : State) : Result :=
  if s.config.indexIncdec then implied i f s else .fault (.unknownOpcode (s.opByte i.mnem i.mode))

end Sys2Proof.Machine
end

