-- ==== Sys2Proof/Machine/LoadStore.lean ====
section
/-! DEFINITION. Loads, stores and register transfers (41_load_store_transfer.md). -/

namespace Sys2Proof.Machine

/-- `A <- v; setZN(v)` (R100). -/
def loadA (v : Byte) (s : State) : State := (s.setA v).setFlags (s.flags.setZN v)

/-- `X <- v; setZN(v)` (R101). -/
def loadX (v : Byte) (s : State) : State := (s.setX v).setFlags (s.flags.setZN v)

/-- `Y <- v; setZN(v)` (R102). -/
def loadY (v : Byte) (s : State) : State := (s.setY v).setFlags (s.flags.setZN v)

/-! LDA, LDX, LDY (R100 to R102). -/

/-- LDA izx, opcode `0xA1` (R100, operand R85). -/
def execLdaIzx (d : Byte) (s : State) : Result := readMem (.ldaIzx d) loadA (.izx d) s

/-- LDA zp, opcode `0xA5` (R100, operand R79). -/
def execLdaZp (d : Byte) (s : State) : Result := readMem (.ldaZp d) loadA (.zp d) s

/-- LDA imm, opcode `0xA9` (R100, operand R78). -/
def execLdaImm (v : Byte) (s : State) : Result := readImm (.ldaImm v) loadA v s

/-- LDA abs, opcode `0xAD` (R100, operand R82). -/
def execLdaAbs (a : Addr) (s : State) : Result := readMem (.ldaAbs a) loadA (.abs a) s

/-- LDA izy, opcode `0xB1` (R100, operand R86). -/
def execLdaIzy (d : Byte) (s : State) : Result := readMem (.ldaIzy d) loadA (.izy d) s

/-- LDA zpx, opcode `0xB5` (R100, operand R80). -/
def execLdaZpx (d : Byte) (s : State) : Result := readMem (.ldaZpx d) loadA (.zpx d) s

/-- LDA aby, opcode `0xB9` (R100, operand R84). -/
def execLdaAby (a : Addr) (s : State) : Result := readMem (.ldaAby a) loadA (.aby a) s

/-- LDA abx, opcode `0xBD` (R100, operand R83). -/
def execLdaAbx (a : Addr) (s : State) : Result := readMem (.ldaAbx a) loadA (.abx a) s

/-- LDX imm, opcode `0xA2` (R101, operand R78). -/
def execLdxImm (v : Byte) (s : State) : Result := readImm (.ldxImm v) loadX v s

/-- LDX zp, opcode `0xA6` (R101, operand R79). -/
def execLdxZp (d : Byte) (s : State) : Result := readMem (.ldxZp d) loadX (.zp d) s

/-- LDX abs, opcode `0xAE` (R101, operand R82). -/
def execLdxAbs (a : Addr) (s : State) : Result := readMem (.ldxAbs a) loadX (.abs a) s

/-- LDX zpy, opcode `0xB6` (R101, operand R81). -/
def execLdxZpy (d : Byte) (s : State) : Result := readMem (.ldxZpy d) loadX (.zpy d) s

/-- LDX aby, opcode `0xBE` (R101, operand R84). -/
def execLdxAby (a : Addr) (s : State) : Result := readMem (.ldxAby a) loadX (.aby a) s

/-- LDY imm, opcode `0xA0` (R102, operand R78). -/
def execLdyImm (v : Byte) (s : State) : Result := readImm (.ldyImm v) loadY v s

/-- LDY zp, opcode `0xA4` (R102, operand R79). -/
def execLdyZp (d : Byte) (s : State) : Result := readMem (.ldyZp d) loadY (.zp d) s

/-- LDY abs, opcode `0xAC` (R102, operand R82). -/
def execLdyAbs (a : Addr) (s : State) : Result := readMem (.ldyAbs a) loadY (.abs a) s

/-- LDY zpx, opcode `0xB4` (R102, operand R80). -/
def execLdyZpx (d : Byte) (s : State) : Result := readMem (.ldyZpx d) loadY (.zpx d) s

/-- LDY abx, opcode `0xBC` (R102, operand R83). -/
def execLdyAbx (a : Addr) (s : State) : Result := readMem (.ldyAbx a) loadY (.abx a) s

/-! STA, STX, STY (R103 to R105): no flag is written. -/

/-- STA izx, opcode `0x81` (R103, operand R85). -/
def execStaIzx (d : Byte) (s : State) : Result := storeMem (.staIzx d) s.a (.izx d) s

/-- STA zp, opcode `0x85` (R103, operand R79). -/
def execStaZp (d : Byte) (s : State) : Result := storeMem (.staZp d) s.a (.zp d) s

/-- STA abs, opcode `0x8D` (R103, operand R82). -/
def execStaAbs (a : Addr) (s : State) : Result := storeMem (.staAbs a) s.a (.abs a) s

/-- STA izy, opcode `0x91` (R103, operand R86). -/
def execStaIzy (d : Byte) (s : State) : Result := storeMem (.staIzy d) s.a (.izy d) s

/-- STA zpx, opcode `0x95` (R103, operand R80). -/
def execStaZpx (d : Byte) (s : State) : Result := storeMem (.staZpx d) s.a (.zpx d) s

/-- STA aby, opcode `0x99` (R103, operand R84). -/
def execStaAby (a : Addr) (s : State) : Result := storeMem (.staAby a) s.a (.aby a) s

/-- STA abx, opcode `0x9D` (R103, operand R83). -/
def execStaAbx (a : Addr) (s : State) : Result := storeMem (.staAbx a) s.a (.abx a) s

/-- STX zp, opcode `0x86` (R104, operand R79). -/
def execStxZp (d : Byte) (s : State) : Result := storeMem (.stxZp d) s.x (.zp d) s

/-- STX abs, opcode `0x8E` (R104, operand R82). -/
def execStxAbs (a : Addr) (s : State) : Result := storeMem (.stxAbs a) s.x (.abs a) s

/-- STX zpy, opcode `0x96` (R104, operand R81). -/
def execStxZpy (d : Byte) (s : State) : Result := storeMem (.stxZpy d) s.x (.zpy d) s

/-- STY zp, opcode `0x84` (R105, operand R79). -/
def execStyZp (d : Byte) (s : State) : Result := storeMem (.styZp d) s.y (.zp d) s

/-- STY abs, opcode `0x8C` (R105, operand R82). -/
def execStyAbs (a : Addr) (s : State) : Result := storeMem (.styAbs a) s.y (.abs a) s

/-- STY zpx, opcode `0x94` (R105, operand R80). -/
def execStyZpx (d : Byte) (s : State) : Result := storeMem (.styZpx d) s.y (.zpx d) s

/-! The register transfers (R106 to R111). -/

/-- `X <- A; setZN(A)` (R106). -/
def copyAX (s : State) : State := loadX s.a s

/-- `Y <- A; setZN(A)` (R107). -/
def copyAY (s : State) : State := loadY s.a s

/-- `A <- X; setZN(X)` (R108). -/
def copyXA (s : State) : State := loadA s.x s

/-- `A <- Y; setZN(Y)` (R109). -/
def copyYA (s : State) : State := loadA s.y s

/-- `X <- SP; setZN(SP)` (R110). -/
def copySpX (s : State) : State := loadX s.sp s

/-- `SP <- X`, and no flag is written (R111). -/
def copyXSp (s : State) : State := s.setSp s.x

/-- TAX (R106): `X <- A; setZN(A)`. -/
def execTax (s : State) : Result := implied .tax copyAX s

/-- TAY (R107): `Y <- A; setZN(A)`. -/
def execTay (s : State) : Result := implied .tay copyAY s

/-- TXA (R108): `A <- X; setZN(X)`. -/
def execTxa (s : State) : Result := implied .txa copyXA s

/-- TYA (R109): `A <- Y; setZN(Y)`. -/
def execTya (s : State) : Result := implied .tya copyYA s

/-- TSX (R110): `X <- SP; setZN(SP)`. -/
def execTsx (s : State) : Result := implied .tsx copySpX s

/-- TXS (R111): `SP <- X`, and no flag is written. -/
def execTxs (s : State) : Result := implied .txs copyXSp s

end Sys2Proof.Machine
end

