-- ==== Sys2Proof/Machine/Alu.lean ====
section
/-! DEFINITION. Arithmetic, logic, compare, increment and decrement (42_arithmetic_logic.md). No
executor here reads the decimal flag (R135). -/

namespace Sys2Proof.Machine

/-- ADC (R120): `A <- (A + m + C) mod 256` with C, Z, V, N. -/
def addWithCarry (m : Byte) (s : State) : State :=
  (s.setA (BitVec.ofNat 8 (carrySum s.a m s.flags.c))).setFlags (s.flags.afterSum s.a m m)

/-- SBC (R121): the addition of the complemented byte; the overflow formula takes that byte when
`SBC_V_COMPLEMENT` is true, the operand itself when it is false. -/
def subWithBorrow (m : Byte) (s : State) : State :=
  let mc := m ^^^ 0xFF#8
  (s.setA (BitVec.ofNat 8 (carrySum s.a mc s.flags.c))).setFlags
    (s.flags.afterSum s.a mc (if s.config.sbcVComplement then mc else m))

/-- AND (R122): `A <- A & m; setZN(A)`. -/
def andA (m : Byte) (s : State) : State := loadA (s.a &&& m) s

/-- ORA (R123): `A <- A | m; setZN(A)`. -/
def orA (m : Byte) (s : State) : State := loadA (s.a ||| m) s

/-- EOR (R124): `A <- A ^ m; setZN(A)`. -/
def eorA (m : Byte) (s : State) : State := loadA (s.a ^^^ m) s

/-- BIT (R125): Z, V and N; `A` is not written. -/
def bitTest (m : Byte) (s : State) : State := s.setFlags (s.flags.afterBit s.a m)

/-- CMP (R126): C, Z and N; `A` is not written. -/
def compareA (m : Byte) (s : State) : State := s.setFlags (s.flags.afterCompare s.a m)

/-- CPX (R127): C, Z and N; `X` is not written. -/
def compareX (m : Byte) (s : State) : State := s.setFlags (s.flags.afterCompare s.x m)

/-- CPY (R128): C, Z and N; `Y` is not written. -/
def compareY (m : Byte) (s : State) : State := s.setFlags (s.flags.afterCompare s.y m)

/-- INC (R129): `r = (v + 1) mod 256; setZN(r)`. -/
def increment (v : Byte) (f : Flags) : Byte × Flags := (v + 1#8, f.setZN (v + 1#8))

/-- DEC (R130): `r = (v - 1) mod 256; setZN(r)`. -/
def decrement (v : Byte) (f : Flags) : Byte × Flags := (v - 1#8, f.setZN (v - 1#8))

/-- `X <- (X + 1) mod 256; setZN(X)` (R131). -/
def incrementX (s : State) : State := loadX (s.x + 1#8) s

/-- `Y <- (Y + 1) mod 256; setZN(Y)` (R132). -/
def incrementY (s : State) : State := loadY (s.y + 1#8) s

/-- `X <- (X - 1) mod 256; setZN(X)` (R133). -/
def decrementX (s : State) : State := loadX (s.x - 1#8) s

/-- `Y <- (Y - 1) mod 256; setZN(Y)` (R134). -/
def decrementY (s : State) : State := loadY (s.y - 1#8) s

/-! ADC and SBC (R120, R121). -/

/-- ADC izx, opcode `0x61` (R120, operand R85). -/
def execAdcIzx (d : Byte) (s : State) : Result := readMem (.adcIzx d) addWithCarry (.izx d) s

/-- ADC zp, opcode `0x65` (R120, operand R79). -/
def execAdcZp (d : Byte) (s : State) : Result := readMem (.adcZp d) addWithCarry (.zp d) s

/-- ADC imm, opcode `0x69` (R120, operand R78). -/
def execAdcImm (v : Byte) (s : State) : Result := readImm (.adcImm v) addWithCarry v s

/-- ADC abs, opcode `0x6D` (R120, operand R82). -/
def execAdcAbs (a : Addr) (s : State) : Result := readMem (.adcAbs a) addWithCarry (.abs a) s

/-- ADC izy, opcode `0x71` (R120, operand R86). -/
def execAdcIzy (d : Byte) (s : State) : Result := readMem (.adcIzy d) addWithCarry (.izy d) s

/-- ADC zpx, opcode `0x75` (R120, operand R80). -/
def execAdcZpx (d : Byte) (s : State) : Result := readMem (.adcZpx d) addWithCarry (.zpx d) s

/-- ADC aby, opcode `0x79` (R120, operand R84). -/
def execAdcAby (a : Addr) (s : State) : Result := readMem (.adcAby a) addWithCarry (.aby a) s

/-- ADC abx, opcode `0x7D` (R120, operand R83). -/
def execAdcAbx (a : Addr) (s : State) : Result := readMem (.adcAbx a) addWithCarry (.abx a) s

/-- SBC izx, opcode `0xE1` (R121, operand R85). -/
def execSbcIzx (d : Byte) (s : State) : Result := readMem (.sbcIzx d) subWithBorrow (.izx d) s

/-- SBC zp, opcode `0xE5` (R121, operand R79). -/
def execSbcZp (d : Byte) (s : State) : Result := readMem (.sbcZp d) subWithBorrow (.zp d) s

/-- SBC imm, opcode `0xE9` (R121, operand R78). -/
def execSbcImm (v : Byte) (s : State) : Result := readImm (.sbcImm v) subWithBorrow v s

/-- SBC abs, opcode `0xED` (R121, operand R82). -/
def execSbcAbs (a : Addr) (s : State) : Result := readMem (.sbcAbs a) subWithBorrow (.abs a) s

/-- SBC izy, opcode `0xF1` (R121, operand R86). -/
def execSbcIzy (d : Byte) (s : State) : Result := readMem (.sbcIzy d) subWithBorrow (.izy d) s

/-- SBC zpx, opcode `0xF5` (R121, operand R80). -/
def execSbcZpx (d : Byte) (s : State) : Result := readMem (.sbcZpx d) subWithBorrow (.zpx d) s

/-- SBC aby, opcode `0xF9` (R121, operand R84). -/
def execSbcAby (a : Addr) (s : State) : Result := readMem (.sbcAby a) subWithBorrow (.aby a) s

/-- SBC abx, opcode `0xFD` (R121, operand R83). -/
def execSbcAbx (a : Addr) (s : State) : Result := readMem (.sbcAbx a) subWithBorrow (.abx a) s

/-! AND, ORA, EOR and BIT (R122 to R125). -/

/-- AND izx, opcode `0x21` (R122, operand R85). -/
def execAndIzx (d : Byte) (s : State) : Result := readMem (.andIzx d) andA (.izx d) s

/-- AND zp, opcode `0x25` (R122, operand R79). -/
def execAndZp (d : Byte) (s : State) : Result := readMem (.andZp d) andA (.zp d) s

/-- AND imm, opcode `0x29` (R122, operand R78). -/
def execAndImm (v : Byte) (s : State) : Result := readImm (.andImm v) andA v s

/-- AND abs, opcode `0x2D` (R122, operand R82). -/
def execAndAbs (a : Addr) (s : State) : Result := readMem (.andAbs a) andA (.abs a) s

/-- AND izy, opcode `0x31` (R122, operand R86). -/
def execAndIzy (d : Byte) (s : State) : Result := readMem (.andIzy d) andA (.izy d) s

/-- AND zpx, opcode `0x35` (R122, operand R80). -/
def execAndZpx (d : Byte) (s : State) : Result := readMem (.andZpx d) andA (.zpx d) s

/-- AND aby, opcode `0x39` (R122, operand R84). -/
def execAndAby (a : Addr) (s : State) : Result := readMem (.andAby a) andA (.aby a) s

/-- AND abx, opcode `0x3D` (R122, operand R83). -/
def execAndAbx (a : Addr) (s : State) : Result := readMem (.andAbx a) andA (.abx a) s

/-- ORA izx, opcode `0x01` (R123, operand R85). -/
def execOraIzx (d : Byte) (s : State) : Result := readMem (.oraIzx d) orA (.izx d) s

/-- ORA zp, opcode `0x05` (R123, operand R79). -/
def execOraZp (d : Byte) (s : State) : Result := readMem (.oraZp d) orA (.zp d) s

/-- ORA imm, opcode `0x09` (R123, operand R78). -/
def execOraImm (v : Byte) (s : State) : Result := readImm (.oraImm v) orA v s

/-- ORA abs, opcode `0x0D` (R123, operand R82). -/
def execOraAbs (a : Addr) (s : State) : Result := readMem (.oraAbs a) orA (.abs a) s

/-- ORA izy, opcode `0x11` (R123, operand R86). -/
def execOraIzy (d : Byte) (s : State) : Result := readMem (.oraIzy d) orA (.izy d) s

/-- ORA zpx, opcode `0x15` (R123, operand R80). -/
def execOraZpx (d : Byte) (s : State) : Result := readMem (.oraZpx d) orA (.zpx d) s

/-- ORA aby, opcode `0x19` (R123, operand R84). -/
def execOraAby (a : Addr) (s : State) : Result := readMem (.oraAby a) orA (.aby a) s

/-- ORA abx, opcode `0x1D` (R123, operand R83). -/
def execOraAbx (a : Addr) (s : State) : Result := readMem (.oraAbx a) orA (.abx a) s

/-- EOR izx, opcode `0x41` (R124, operand R85). -/
def execEorIzx (d : Byte) (s : State) : Result := readMem (.eorIzx d) eorA (.izx d) s

/-- EOR zp, opcode `0x45` (R124, operand R79). -/
def execEorZp (d : Byte) (s : State) : Result := readMem (.eorZp d) eorA (.zp d) s

/-- EOR imm, opcode `0x49` (R124, operand R78). -/
def execEorImm (v : Byte) (s : State) : Result := readImm (.eorImm v) eorA v s

/-- EOR abs, opcode `0x4D` (R124, operand R82). -/
def execEorAbs (a : Addr) (s : State) : Result := readMem (.eorAbs a) eorA (.abs a) s

/-- EOR izy, opcode `0x51` (R124, operand R86). -/
def execEorIzy (d : Byte) (s : State) : Result := readMem (.eorIzy d) eorA (.izy d) s

/-- EOR zpx, opcode `0x55` (R124, operand R80). -/
def execEorZpx (d : Byte) (s : State) : Result := readMem (.eorZpx d) eorA (.zpx d) s

/-- EOR aby, opcode `0x59` (R124, operand R84). -/
def execEorAby (a : Addr) (s : State) : Result := readMem (.eorAby a) eorA (.aby a) s

/-- EOR abx, opcode `0x5D` (R124, operand R83). -/
def execEorAbx (a : Addr) (s : State) : Result := readMem (.eorAbx a) eorA (.abx a) s

/-- BIT zp, opcode `0x24` (R125, operand R79). -/
def execBitZp (d : Byte) (s : State) : Result := readMem (.bitZp d) bitTest (.zp d) s

/-- BIT abs, opcode `0x2C` (R125, operand R82). -/
def execBitAbs (a : Addr) (s : State) : Result := readMem (.bitAbs a) bitTest (.abs a) s

/-! CMP, CPX and CPY (R126 to R128). -/

/-- CMP izx, opcode `0xC1` (R126, operand R85). -/
def execCmpIzx (d : Byte) (s : State) : Result := readMem (.cmpIzx d) compareA (.izx d) s

/-- CMP zp, opcode `0xC5` (R126, operand R79). -/
def execCmpZp (d : Byte) (s : State) : Result := readMem (.cmpZp d) compareA (.zp d) s

/-- CMP imm, opcode `0xC9` (R126, operand R78). -/
def execCmpImm (v : Byte) (s : State) : Result := readImm (.cmpImm v) compareA v s

/-- CMP abs, opcode `0xCD` (R126, operand R82). -/
def execCmpAbs (a : Addr) (s : State) : Result := readMem (.cmpAbs a) compareA (.abs a) s

/-- CMP izy, opcode `0xD1` (R126, operand R86). -/
def execCmpIzy (d : Byte) (s : State) : Result := readMem (.cmpIzy d) compareA (.izy d) s

/-- CMP zpx, opcode `0xD5` (R126, operand R80). -/
def execCmpZpx (d : Byte) (s : State) : Result := readMem (.cmpZpx d) compareA (.zpx d) s

/-- CMP aby, opcode `0xD9` (R126, operand R84). -/
def execCmpAby (a : Addr) (s : State) : Result := readMem (.cmpAby a) compareA (.aby a) s

/-- CMP abx, opcode `0xDD` (R126, operand R83). -/
def execCmpAbx (a : Addr) (s : State) : Result := readMem (.cmpAbx a) compareA (.abx a) s

/-- CPX imm, opcode `0xE0` (R127, operand R78). -/
def execCpxImm (v : Byte) (s : State) : Result := readImm (.cpxImm v) compareX v s

/-- CPX zp, opcode `0xE4` (R127, operand R79). -/
def execCpxZp (d : Byte) (s : State) : Result := readMem (.cpxZp d) compareX (.zp d) s

/-- CPX abs, opcode `0xEC` (R127, operand R82). -/
def execCpxAbs (a : Addr) (s : State) : Result := readMem (.cpxAbs a) compareX (.abs a) s

/-- CPY imm, opcode `0xC0` (R128, operand R78). -/
def execCpyImm (v : Byte) (s : State) : Result := readImm (.cpyImm v) compareY v s

/-- CPY zp, opcode `0xC4` (R128, operand R79). -/
def execCpyZp (d : Byte) (s : State) : Result := readMem (.cpyZp d) compareY (.zp d) s

/-- CPY abs, opcode `0xCC` (R128, operand R82). -/
def execCpyAbs (a : Addr) (s : State) : Result := readMem (.cpyAbs a) compareY (.abs a) s

/-! INC and DEC (R129, R130). -/

/-- INC zp, opcode `0xE6` (R129, operand R79). -/
def execIncZp (d : Byte) (s : State) : Result := rmwMem (.incZp d) increment (.zp d) s

/-- INC abs, opcode `0xEE` (R129, operand R82). -/
def execIncAbs (a : Addr) (s : State) : Result := rmwMem (.incAbs a) increment (.abs a) s

/-- INC zpx, opcode `0xF6` (R129, operand R80). -/
def execIncZpx (d : Byte) (s : State) : Result := rmwMem (.incZpx d) increment (.zpx d) s

/-- INC abx, opcode `0xFE` (R129, operand R83). -/
def execIncAbx (a : Addr) (s : State) : Result := rmwMem (.incAbx a) increment (.abx a) s

/-- DEC zp, opcode `0xC6` (R130, operand R79). -/
def execDecZp (d : Byte) (s : State) : Result := rmwMem (.decZp d) decrement (.zp d) s

/-- DEC abs, opcode `0xCE` (R130, operand R82). -/
def execDecAbs (a : Addr) (s : State) : Result := rmwMem (.decAbs a) decrement (.abs a) s

/-- DEC zpx, opcode `0xD6` (R130, operand R80). -/
def execDecZpx (d : Byte) (s : State) : Result := rmwMem (.decZpx d) decrement (.zpx d) s

/-- DEC abx, opcode `0xDE` (R130, operand R83). -/
def execDecAbx (a : Addr) (s : State) : Result := rmwMem (.decAbx a) decrement (.abx a) s

/-! INX, INY, DEX and DEY, present only when `INDEX_INCDEC` is true (R131 to R134). -/

/-- INX (R131): `X <- (X + 1) mod 256; setZN(X)`. -/
def execInx (s : State) : Result := whenIndexIncdec .inx incrementX s

/-- INY (R132): `Y <- (Y + 1) mod 256; setZN(Y)`. -/
def execIny (s : State) : Result := whenIndexIncdec .iny incrementY s

/-- DEX (R133): `X <- (X - 1) mod 256; setZN(X)`. -/
def execDex (s : State) : Result := whenIndexIncdec .dex decrementX s

/-- DEY (R134): `Y <- (Y - 1) mod 256; setZN(Y)`. -/
def execDey (s : State) : Result := whenIndexIncdec .dey decrementY s

end Sys2Proof.Machine
end

