-- ==== Sys2Proof/Machine/Control.lean ====
section
/-! DEFINITION. Control transfer (45_control_flow.md). Each rule assigns `pc` and charges `CYC` itself;
there is no epilogue (40_dispatch_and_addressing.md R72). -/

namespace Sys2Proof.Machine

/-- The target of a taken branch (R87, R170): `(pc + size + signed(offset)) mod 65536`. -/
def branchTarget (i : Instr) (off : Byte) (s : State) : Addr :=
  s.pc + BitVec.ofNat 16 i.size + sext16 off

/-- `branch(cond)` (R170): the page of the target is compared with that of the branch itself
(decision D13; log entry 16). -/
def branch (i : Instr) (cond : Bool) (off : Byte) (s : State) : Result :=
  if cond then
    let target := branchTarget i off s
    .next ((s.charge (if hi8 target = hi8 s.pc then 3 else 4)).setPc target)
  else
    .next ((s.charge 2).setPc (s.pc + BitVec.ofNat 16 i.size))

/-- BCC (R171): `branch(C == 0)`. -/
def execBcc (off : Byte) (s : State) : Result := branch (.bcc off) (!s.flags.c) off s

/-- BCS (R172): `branch(C == 1)`. -/
def execBcs (off : Byte) (s : State) : Result := branch (.bcs off) (s.flags.c) off s

/-- BEQ (R173): `branch(Z == 1)`. -/
def execBeq (off : Byte) (s : State) : Result := branch (.beq off) (s.flags.z) off s

/-- BNE (R174): `branch(Z == 0)`. -/
def execBne (off : Byte) (s : State) : Result := branch (.bne off) (!s.flags.z) off s

/-- BMI (R175): `branch(N == 1)`. -/
def execBmi (off : Byte) (s : State) : Result := branch (.bmi off) (s.flags.n) off s

/-- BPL (R176): `branch(N == 0)`. -/
def execBpl (off : Byte) (s : State) : Result := branch (.bpl off) (!s.flags.n) off s

/-- BVC (R177): `branch(V == 0)`. -/
def execBvc (off : Byte) (s : State) : Result := branch (.bvc off) (!s.flags.v) off s

/-- BVS (R178): `branch(V == 1)`. -/
def execBvs (off : Byte) (s : State) : Result := branch (.bvs off) (s.flags.v) off s

/-- JMP absolute (R179): `pc` becomes the target. -/
def execJmpAbs (a : Addr) (s : State) : Result := .next ((s.setPc a).charge 3)

/-- JMP indirect (R180, R192): the fault `UnsupportedAddressingMode` with its opcode byte, `0x6C` in the
table of R53, for every operand and state; the source forbids guessing a pointer jump. -/
def execJmpInd (a : Addr) (s : State) : Result :=
  .fault (.unsupportedAddressingMode (s.opByte (Instr.jmpInd a).mnem (Instr.jmpInd a).mode))

/-- JSR (R181): push `pc + 2`, go to the target. -/
def execJsrAbs (a : Addr) (s : State) : Result := .next (((s.push16 (s.pc + 2#16)).setPc a).charge 6)

/-- RTS (R182): `pc` becomes the popped address plus 1. -/
def execRts (s : State) : Result := .next ((s.popped16.setPc (s.top16 + 1#16)).charge 6)

/-- BRK (R183): the trap entry. -/
def execBrk (s : State) : Result := .next (takeTrap s)

/-- RTI (R184): the return from it. -/
def execRti (s : State) : Result := .next (returnFromTrap s)

end Sys2Proof.Machine
end

