-- ==== Sys2Proof/Machine/FlagStack.lean ====
section
/-! DEFINITION. The flag instructions, the stack instructions and NOP (44_flags_stack_nop.md). -/

namespace Sys2Proof.Machine

/-- `C <- b` (R150, R151). -/
def writeC (b : Bool) (s : State) : State := s.setFlags { s.flags with c := b }

/-- `D <- b` (R152, R153). -/
def writeD (b : Bool) (s : State) : State := s.setFlags { s.flags with d := b }

/-- `V <- 0` (R154). -/
def clearV (s : State) : State := s.setFlags { s.flags with v := false }

/-- `PEND <- Some(b)` (R155, R156). -/
def stage (b : Bool) (s : State) : State := s.setPend (some b)

/-- `push(A)` (R162). -/
def pushA (s : State) : State := s.push s.a

/-- `push(encode_status())` (R163). -/
def pushStatus (s : State) : State := s.push (encodeStatus s.config.flagPos s.flags)

/-- `A <- pop(); setZN(A)` (R164). -/
def pullA (s : State) : State := loadA s.top s.popped

/-- PLP (R165): the popped byte gives C, Z, D, V and N at once and is staged for `I`. -/
def pullStatus (s : State) : State :=
  let p := s.config.flagPos
  (s.popped.setFlags (decodeExceptI p s.flags s.top)).setPend (some (s.top.getLsbD p.i))

/-- CLC (R150): `C <- 0`. -/
def execClc (s : State) : Result := implied .clc (writeC false) s

/-- SEC (R151): `C <- 1`. -/
def execSec (s : State) : Result := implied .sec (writeC true) s

/-- CLD (R152): `D <- 0`. -/
def execCld (s : State) : Result := implied .cld (writeD false) s

/-- SED (R153): `D <- 1`. -/
def execSed (s : State) : Result := implied .sed (writeD true) s

/-- CLV (R154): `V <- 0`. -/
def execClv (s : State) : Result := implied .clv clearV s

/-- CLI (R155): `PEND <- Some(0)`; `I` itself changes in the next transaction's apply step. -/
def execCli (s : State) : Result := implied .cli (stage false) s

/-- SEI (R156): `PEND <- Some(1)`. -/
def execSei (s : State) : Result := implied .sei (stage true) s

/-- PHA (R162): `push(A)`. -/
def execPha (s : State) : Result := implied .pha pushA s

/-- PHP (R163): `push(encode_status())`. -/
def execPhp (s : State) : Result := implied .php pushStatus s

/-- PLA (R164): `A <- pop(); setZN(A)`. -/
def execPla (s : State) : Result := implied .pla pullA s

/-- PLP (R165): the popped byte gives C, Z, D, V and N at once and is staged for `I`. -/
def execPlp (s : State) : Result := implied .plp pullStatus s

/-- NOP (R166): the executor does nothing. -/
def execNop (s : State) : Result := implied .nop id s

end Sys2Proof.Machine
end

