-- ==== Sys2Proof/Machine/Shift.lean ====
section
/-! DEFINITION. Shifts and rotates by one bit, on the accumulator or on memory (43_shift_rotate.md). -/

namespace Sys2Proof.Machine

/-- ASL (R140): left, bit 0 filled with 0; C takes bit 7. -/
def shiftLeft (v : Byte) (f : Flags) : Byte × Flags :=
  let r := v <<< 1
  (r, f.afterShift r (v.getLsbD 7))

/-- LSR (R141): right, bit 7 filled with 0; C takes bit 0. -/
def shiftRight (v : Byte) (f : Flags) : Byte × Flags :=
  let r := v >>> 1
  (r, f.afterShift r (v.getLsbD 0))

/-- ROL (R142): left through the carry; the old carry enters bit 0 and C takes bit 7. -/
def rotateLeft (v : Byte) (f : Flags) : Byte × Flags :=
  let r := v <<< 1 ||| bitAt f.c 0
  (r, f.afterShift r (v.getLsbD 7))

/-- ROR (R143): right through the carry; the old carry enters bit 7 and C takes bit 0. -/
def rotateRight (v : Byte) (f : Flags) : Byte × Flags :=
  let r := v >>> 1 ||| bitAt f.c 7
  (r, f.afterShift r (v.getLsbD 0))

/-! ASL, LSR, ROL and ROR (R140 to R144). -/

/-- ASL zp, opcode `0x06` (R140, operand R79). -/
def execAslZp (d : Byte) (s : State) : Result := rmwMem (.aslZp d) shiftLeft (.zp d) s

/-- ASL acc, opcode `0x0A` (R140, operand R77). -/
def execAslAcc (s : State) : Result := rmwAcc .aslAcc shiftLeft s

/-- ASL abs, opcode `0x0E` (R140, operand R82). -/
def execAslAbs (a : Addr) (s : State) : Result := rmwMem (.aslAbs a) shiftLeft (.abs a) s

/-- ASL zpx, opcode `0x16` (R140, operand R80). -/
def execAslZpx (d : Byte) (s : State) : Result := rmwMem (.aslZpx d) shiftLeft (.zpx d) s

/-- ASL abx, opcode `0x1E` (R140, operand R83). -/
def execAslAbx (a : Addr) (s : State) : Result := rmwMem (.aslAbx a) shiftLeft (.abx a) s

/-- LSR zp, opcode `0x46` (R141, operand R79). -/
def execLsrZp (d : Byte) (s : State) : Result := rmwMem (.lsrZp d) shiftRight (.zp d) s

/-- LSR acc, opcode `0x4A` (R141, operand R77). -/
def execLsrAcc (s : State) : Result := rmwAcc .lsrAcc shiftRight s

/-- LSR abs, opcode `0x4E` (R141, operand R82). -/
def execLsrAbs (a : Addr) (s : State) : Result := rmwMem (.lsrAbs a) shiftRight (.abs a) s

/-- LSR zpx, opcode `0x56` (R141, operand R80). -/
def execLsrZpx (d : Byte) (s : State) : Result := rmwMem (.lsrZpx d) shiftRight (.zpx d) s

/-- LSR abx, opcode `0x5E` (R141, operand R83). -/
def execLsrAbx (a : Addr) (s : State) : Result := rmwMem (.lsrAbx a) shiftRight (.abx a) s

/-- ROL zp, opcode `0x26` (R142, operand R79). -/
def execRolZp (d : Byte) (s : State) : Result := rmwMem (.rolZp d) rotateLeft (.zp d) s

/-- ROL acc, opcode `0x2A` (R142, operand R77). -/
def execRolAcc (s : State) : Result := rmwAcc .rolAcc rotateLeft s

/-- ROL abs, opcode `0x2E` (R142, operand R82). -/
def execRolAbs (a : Addr) (s : State) : Result := rmwMem (.rolAbs a) rotateLeft (.abs a) s

/-- ROL zpx, opcode `0x36` (R142, operand R80). -/
def execRolZpx (d : Byte) (s : State) : Result := rmwMem (.rolZpx d) rotateLeft (.zpx d) s

/-- ROL abx, opcode `0x3E` (R142, operand R83). -/
def execRolAbx (a : Addr) (s : State) : Result := rmwMem (.rolAbx a) rotateLeft (.abx a) s

/-- ROR zp, opcode `0x66` (R143, operand R79). -/
def execRorZp (d : Byte) (s : State) : Result := rmwMem (.rorZp d) rotateRight (.zp d) s

/-- ROR acc, opcode `0x6A` (R143, operand R77). -/
def execRorAcc (s : State) : Result := rmwAcc .rorAcc rotateRight s

/-- ROR abs, opcode `0x6E` (R143, operand R82). -/
def execRorAbs (a : Addr) (s : State) : Result := rmwMem (.rorAbs a) rotateRight (.abs a) s

/-- ROR zpx, opcode `0x76` (R143, operand R80). -/
def execRorZpx (d : Byte) (s : State) : Result := rmwMem (.rorZpx d) rotateRight (.zpx d) s

/-- ROR abx, opcode `0x7E` (R143, operand R83). -/
def execRorAbx (a : Addr) (s : State) : Result := rmwMem (.rorAbx a) rotateRight (.abx a) s

end Sys2Proof.Machine
end

