-- ==== Sys2Proof/Machine/Executors.lean ====
section
/-! DEFINITION. The executors of the dispatch table (30_encoding.md R53), and the transaction on any
pairing of one of them with a mode (40_dispatch_and_addressing.md R70 step 3), for an `OPCODE_TABLE` that
has pairings R53 does not list (00_scope.md R3; log entry 21). -/

namespace Sys2Proof.Machine

/-- An executor by what it does with its operand: nothing, take a byte (`read_operand`), store a byte at
the effective address, or read a byte, compute, and write it back (`write_dest`). -/
inductive Executor where
  | plain (f : State → State)
  | consume (f : Byte → State → State)
  | store (v : State → Byte)
  | modify (f : Byte → Flags → Byte × Flags)

/-- The executor of a table-dispatched mnemonic (files 41 to 44); a control-flow mnemonic has none (R72). -/
def executorOf (mn : Mnemonic) : Option Executor :=
  match mn with
  | .lda => some (.consume loadA)
  | .ldx => some (.consume loadX)
  | .ldy => some (.consume loadY)
  | .sta => some (.store State.a)
  | .stx => some (.store State.x)
  | .sty => some (.store State.y)
  | .tax => some (.plain copyAX)
  | .tay => some (.plain copyAY)
  | .txa => some (.plain copyXA)
  | .tya => some (.plain copyYA)
  | .tsx => some (.plain copySpX)
  | .txs => some (.plain copyXSp)
  | .adc => some (.consume addWithCarry)
  | .sbc => some (.consume subWithBorrow)
  | .and => some (.consume andA)
  | .ora => some (.consume orA)
  | .eor => some (.consume eorA)
  | .bit => some (.consume bitTest)
  | .cmp => some (.consume compareA)
  | .cpx => some (.consume compareX)
  | .cpy => some (.consume compareY)
  | .inc => some (.modify increment)
  | .dec => some (.modify decrement)
  | .inx => some (.plain incrementX)
  | .iny => some (.plain incrementY)
  | .dex => some (.plain decrementX)
  | .dey => some (.plain decrementY)
  | .asl => some (.modify shiftLeft)
  | .lsr => some (.modify shiftRight)
  | .rol => some (.modify rotateLeft)
  | .ror => some (.modify rotateRight)
  | .clc => some (.plain (writeC false))
  | .sec => some (.plain (writeC true))
  | .cld => some (.plain (writeD false))
  | .sed => some (.plain (writeD true))
  | .clv => some (.plain clearV)
  | .cli => some (.plain (stage false))
  | .sei => some (.plain (stage true))
  | .pha => some (.plain pushA)
  | .php => some (.plain pushStatus)
  | .pla => some (.plain pullA)
  | .plp => some (.plain pullStatus)
  | .nop => some (.plain id)
  | .bcc | .bcs | .beq | .bmi | .bne | .bpl | .brk | .bvc | .bvs | .jmp | .jsr | .rti | .rts => none

/-- A read-modify-write step on the destination of an operand (R92): `f` gives the result and the flags
from the value and the flags before; none where the operand is no place to write back. -/
def modifyAt (f : Byte → Flags → Byte × Flags) (o : Operand) (s : State) : Option State :=
  match o with
  | .acc =>
    let out := f s.a s.flags
    some ((s.setA out.1).setFlags out.2)
  | .mem m =>
    let out := f (s.load (effectiveAddr m s)) s.flags
    some ((s.store (effectiveAddr m s) out.1).setFlags out.2)
  | _ => none

/-- What an executor does on an operand (R75); none where the operand does not serve it. -/
def Executor.run (e : Executor) (o : Operand) (s : State) : Option State :=
  match e with
  | .plain f => some (f s)
  | .consume f => (operandValue o s).map fun v => f v s
  | .store v => (operandAddr o s).map fun ea => s.store ea (v s)
  | .modify f => modifyAt f o s

/-- A transaction on a pairing of an executor with a mode (R70 step 3): an optional one is in the table
only when `INDEX_INCDEC` is true (R56), and one that does not exist leaves its byte absent (R54). -/
def execPairing (mn : Mnemonic) (o : Operand) (s : State) : Result :=
  let absent : Result := .fault (.unknownOpcode (s.opByte mn o.mode))
  if mn.cls o.mode = .opt ∧ s.config.indexIncdec = false then absent
  else
    match (executorOf mn).bind fun e => e.run o s with
    | some t => .next (endTable mn o.mode (operandCrossed o s) t)
    | none => absent

end Sys2Proof.Machine
end

