-- ==== Sys2Proof/Machine/Execute.lean ====
section
/-! DEFINITION. The one transaction of the block, and the reference front-end's fetch. -/

namespace Sys2Proof.Machine

/-- The fault an opcode byte raises whatever the record's other fields and the state are (R191, R192):
it depends on the byte, the opcode table and `INDEX_INCDEC` only. -/
def opcodeFault (cfg : Config) (op : Byte) : Option Fault :=
  match cfg.table.rowAt op with
  | none => some (.unknownOpcode op)
  | some row =>
    match row.mnem.cls row.mode with
    | .fault => some (.unsupportedAddressingMode op)
    | .opt => if cfg.indexIncdec then none else some (.unknownOpcode op)
    | .tbl => none
    | .cf => none

/-- The end of a transaction: no opcode byte is in progress any more. -/
def endTransaction : Result → Result
  | .next s => .next (s.setOp none)
  | .fault f => .fault f
  | .refused r => .refused r

/-- `execute(ins)` (R70): the apply step, then what the record stands for, its opcode byte in progress: an
instruction of R53, or a pairing of an executor and a mode that only another table has. A byte absent
from the opcode table is the fault `UnknownOpcode` (R74). A record that is not well formed is refused at
the interface (R59, U11; log entry 10), unless its opcode byte alone makes it a fault. -/
def execute (ins : Record) (s : State) : Result :=
  let s1 := (applyPending s).setOp (some ins.opCode)
  match decodeRecord s1.config.table ins with
  | .ok i => endTransaction (exec i s1)
  | .error (.unlisted mn o) => endTransaction (execPairing mn o s1)
  | .error _ =>
    match opcodeFault s1.config ins.opCode with
    | some f => .fault f
    | none => .refused .illFormedRecord

/-- `Fetch(state)` (R60): the record at `pc`, its bytes at `pc`, `pc + 1` and `pc + 2` modulo 65536.
Reads change nothing, and `assemble` drops the bytes the length does not cover. -/
def fetch (s : State) : Record :=
  assemble s.config.table (s.load s.pc) (s.load (s.pc + 1#16)) (s.load (s.pc + 2#16))

/-- Three bytes stored at `pc`, where `fetch` reads its next instruction. -/
def State.placeAtPc (s : State) (b0 b1 b2 : Byte) : State :=
  ((s.store s.pc b0).store (s.pc + 1#16) b1).store (s.pc + 2#16) b2

end Sys2Proof.Machine
end

