-- ==== Sys2Proof/Machine/Step.lean ====
section
/-! DEFINITION. One step of the machine: one transaction on the record the reference front-end fetches
(30_encoding.md R60 `Run`, without its host stop). -/

namespace Sys2Proof.Machine

/-- `ins = Fetch(state); execute(ins)` (R60; decision D9, log entry 8). -/
def step (s : State) : Host.Outcome State Fault Refusal := execute (fetch s) s

/-- The state with an instruction, given as the bits of the opcode table's numbering, stored where the
next step fetches: the host's load of a program (R212). -/
def State.withFetchWord (s : State) (nbits w : Nat) : State :=
  match wordBytes nbits w with
  | (b0, b1, b2) => s.placeAtPc b0 b1 b2

end Sys2Proof.Machine
end

