-- ==== Sys2Proof/Machine/Run.lean ====
section
/-! DEFINITION. Runs: the reference front-end's `Run` with its host stop `HALT_PC`, and the harness
that feeds a list of records (70_reset_and_hazards.md R216, R218; 30_encoding.md R60). -/

namespace Sys2Proof.Machine

/-- How a bounded run ended. A faulted run has no final state (R193, R218). -/
inductive RunEnd where
  | halted (s : State)
  | running (s : State)
  | fault (f : Fault)
  | refused (r : Refusal)
  deriving DecidableEq, Repr

/-- `Run` (R60, R218) for at most `k` transactions: it stops, before fetching, the first time `pc` is
`HALT_PC` at a transaction boundary; `none` is no such address. -/
def run (haltPc : Option Addr) : Nat → State → RunEnd
  | 0, s => if haltPc = some s.pc then .halted s else .running s
  | k + 1, s =>
    if haltPc = some s.pc then .halted s
    else
      match step s with
      | .next t => run haltPc k t
      | .fault f => .fault f
      | .refused r => .refused r

/-- The host mode that feeds decoded records in order (R40, R216): the records are executed whatever
`pc` and memory hold. -/
def feed : List Record → State → Result
  | [], s => .next s
  | ins :: rest, s =>
    match execute ins s with
    | .next t => feed rest t
    | .fault f => .fault f
    | .refused r => .refused r

end Sys2Proof.Machine
end

