-- ==== Sys2Proof/Safety.lean ====
section
/-! DEFINITION. What a safe run is, in the terms claims use. -/

namespace Sys2Proof

open Sys2Proof.Machine

/-- A state a run reaches from another: each transaction ends in a next state (R37, R218). -/
inductive Reaches : State → State → Prop where
  | here (s : State) : Reaches s s
  | step {s t u : State} : Machine.step s = .next t → Reaches t u → Reaches s u

/-- The transaction from this state ends in a next state, not in one of the two faults (R190). -/
def Completes (s : State) : Prop := ∃ t, Machine.step s = .next t

/-- A safe run: no state it reaches ends in a fault or a refusal. -/
def SafeFrom (s : State) : Prop := ∀ t, Reaches s t → Completes t

/-- The memory is in canonical form: the invariant every step keeps. -/
def Canonical (s : State) : Prop := Memory.wf s.mem = true

end Sys2Proof
end

