-- ==== Sys2Proof/Certificates/Slice0/Obligations.lean ====
section
/-! DEFINITION. The statements about the model. Each docstring names the rules of spec/ it formalises. -/

namespace Sys2Proof.Claims

open Sys2Proof Sys2Proof.Machine

/-- The (opcode byte, mode) pairs of a mnemonic in the published table: every instruction of the mnemonic
is one of them, and a well-formed record with one of these opcode bytes decodes to the mnemonic in that
mode. The pairs are those of R53, the spec's decision D1 (log entry 5). -/
def HasEncodings (mn : Mnemonic) (forms : List (Byte × Mode)) : Prop :=
  (∀ i : Instr, i.mnem = mn → (publishedTable.opByte i, i.mode) ∈ forms) ∧
    ∀ f ∈ forms, ∀ r : Record, r.wf publishedTable = true → r.opCode = f.1 →
      ∃ i : Instr, decodeRecord publishedTable r = .ok i ∧ i.mnem = mn ∧ i.mode = f.2

/-- The encodings of a table-dispatched mnemonic with, for each, the base cycle cost and whether it is
page-cross-sensitive in the published table: the spec's decisions D4 and D5 (log entry 6). -/
def HasForms (mn : Mnemonic) (forms : List (Byte × Mode × Nat × Bool)) : Prop :=
  HasEncodings mn (forms.map fun f => (f.1, f.2.1)) ∧
    ∀ i : Instr, i.mnem = mn →
      (publishedTable.opByte i, i.mode, publishedTable.baseCycles i,
        publishedTable.pageSensitive i) ∈ forms

/-- `CYC` raised by `k` in a state, by the state's `CYCLE_WIDTH`: `CYC + k` where it is unbounded, its
default, and modulo `2 ^ w` where it is `w` bits (R16; decision D11, log entry 7). -/
def laterBy (k : Nat) (s : State) : Nat :=
  match s.config.cycleWidth with
  | none => s.cyc + k
  | some w => (s.cyc + k) % 2 ^ w

/-- What a table-dispatched instruction leaves besides its executor's effect `t`: `pc` moved past it
from where it was in `s`, and `CYC` raised by the base cost, and by one more when the opcode is
page-cross-sensitive and its access crossed a page (R70 step 3, R89, R90). Cost and sensitivity stand in
the row the state gives the transaction: that of the opcode byte in progress, or of the instruction where
none is (log entry 22). -/
def afterTable (i : Instr) (s t : State) : State :=
  let row := s.row i.mnem i.mode
  { t with
    pc := s.pc + BitVec.ofNat 16 i.size
    cyc := laterBy (rowCycles row +
      (if rowSensitive row = true ∧ operandCrossed i.operand s = true then 1 else 0)) s }

/-- The state with an opcode byte in progress, or with none. -/
def withOp (op : Option Byte) (s : State) : State := { s with op := op }

/-- The flags with Z and N set from a byte (R91). -/
def zn (f : Flags) (v : Byte) : Flags := { f with z := decide (v = 0#8), n := v.getLsbD 7 }

/-- The state with a result written to the destination of a shift or rotate (R92): the effective
address where the operand has one, the accumulator otherwise. -/
def written (o : Operand) (s : State) (r : Byte) : State :=
  match operandAddr o s with
  | some ea => { s with mem := s.mem.write ea.toNat r }
  | none => { s with a := r }

/-- The status byte of R160 at the published positions: N V 1 1 D I Z C from bit 7 down. -/
def statusByte (f : Flags) : Byte :=
  BitVec.ofNat 8 (f.n.toNat * 128 + f.v.toNat * 64 + 48 + f.d.toNat * 8 + f.i.toNat * 4 +
    f.z.toNat * 2 + f.c.toNat)

/-- The address in the stack page an 8-bit stack pointer names (R12). -/
def inStack (sp : Byte) : Nat := 0x0100 + sp.toNat

/-- The state after a conditional branch (R170). -/
def branched (s : State) (off : Byte) (cond : Bool) : State :=
  if cond = true then
    let target := BitVec.ofInt 16 (s.pc.toNat + 2 + off.toInt)
    { s with
      pc := target
      cyc := laterBy (if target.toNat / 256 = s.pc.toNat / 256 then 3 else 4) s }
  else { s with pc := s.pc + 2#16, cyc := laterBy 2 s }

/-- The addresses an instruction stores to in a state (R33), computed with the model's own resolver and
stack address. -/
def storedAddrs (i : Instr) (s : State) : List Addr :=
  if i.mnem ∈ [.sta, .stx, .sty, .asl, .lsr, .rol, .ror, .inc, .dec] then
    (operandAddr i.operand s).toList
  else if i.mnem ∈ [.pha, .php] then [stackAddr s.sp]
  else if i.mnem = .jsr then [stackAddr s.sp, stackAddr (s.sp - 1#8)]
  else if i.mnem = .brk then [stackAddr s.sp, stackAddr (s.sp - 1#8), stackAddr (s.sp - 2#8)]
  else []

/-- A result with its next state changed. -/
def mapNext (f : State → State) : Result → Result
  | .next s => .next (f s)
  | .fault r => .fault r
  | .refused r => .refused r

/-- The state with another decimal flag. -/
def withD (b : Bool) (s : State) : State := { s with flags := { s.flags with d := b } }

/-- The state with another interrupt-disable flag. -/
def withI (b : Bool) (s : State) : State := { s with flags := { s.flags with i := b } }

/-- Instructions executed one after another. -/
def execAll : List Instr → State → Result
  | [], s => .next s
  | i :: rest, s =>
    match exec i s with
    | .next t => execAll rest t
    | .fault f => .fault f
    | .refused r => .refused r

/-- The 105 opcode bytes R54 lists other than the four of `INDEX_INCDEC`. -/
def absentBytes : List Byte :=
  [0x02, 0x03, 0x04, 0x07, 0x0B, 0x0C, 0x0F, 0x12, 0x13, 0x14, 0x17, 0x1A, 0x1B, 0x1C, 0x1F, 0x22,
   0x23, 0x27, 0x2B, 0x2F, 0x32, 0x33, 0x34, 0x37, 0x3A, 0x3B, 0x3C, 0x3F, 0x42, 0x43, 0x44, 0x47,
   0x4B, 0x4F, 0x52, 0x53, 0x54, 0x57, 0x5A, 0x5B, 0x5C, 0x5F, 0x62, 0x63, 0x64, 0x67, 0x6B] ++
  [0x6F, 0x72, 0x73, 0x74, 0x77, 0x7A, 0x7B, 0x7C, 0x7F, 0x80, 0x82, 0x83, 0x87, 0x89, 0x8B, 0x8F,
   0x92, 0x93, 0x97, 0x9B, 0x9C, 0x9E, 0x9F, 0xA3, 0xA7, 0xAB, 0xAF, 0xB2, 0xB3, 0xB7, 0xBB, 0xBF,
   0xC2, 0xC3, 0xC7, 0xCB, 0xCF, 0xD2, 0xD3, 0xD4, 0xD7, 0xDA, 0xDB, 0xDC, 0xDF, 0xE2,
   0xE3, 0xE7, 0xEB, 0xEF, 0xF2, 0xF3, 0xF4, 0xF7, 0xFA, 0xFB, 0xFC, 0xFF]

/-- The four opcode bytes that exist only when `INDEX_INCDEC` is true (R56). -/
def optionalBytes : List Byte := [0x88, 0xC8, 0xCA, 0xE8]

end Sys2Proof.Claims

open Sys2Proof Sys2Proof.Machine Sys2Proof.Claims

/-! Encoding and the front-end. -/

/-- Decoding the bytes of any instruction, whatever follows them, gives it back: with the published
table, which has every instruction, and with any other in which no byte stands twice, for the
instructions it has (R51, R52, R53, R57; the table is the parameter of log entries 5 and 21). -/
def Obligations.DecodeOfEncodeIsIdentity : Prop :=
  (∀ (i : Instr) (rest : List Byte),
    decode publishedTable (encode publishedTable i ++ rest) = .ok (i, rest)) ∧
  ∀ (t : OpcodeTable) (i : Instr) (rest : List Byte), t.ok = true → t.has i = true →
    decode t (encode t i ++ rest) = .ok (i, rest)

/-- A record stands for an instruction exactly when it is that instruction's record: with the published
table the one record of it, and with any other in which no byte stands twice its record under one of the
bytes the table gives it (R50, R52). No two instructions share a record. That no record outside the
well-formed ones decodes is the model's choice (DESIGN CHOICE, log entry 10; decision D16): R59 says that
the block checks neither the size nor the unused bytes, and only lets a model refuse such a record. -/
def Obligations.RecordDecodesExactlyItsInstruction : Prop :=
  (∀ (r : Record) (i : Instr),
    decodeRecord publishedTable r = .ok i ↔ encodeRecord publishedTable i = r) ∧
  ∀ (t : OpcodeTable) (r : Record) (i : Instr), t.ok = true →
    (decodeRecord t r = .ok i ↔
      ∃ row ∈ t, row.mnem = i.mnem ∧ row.mode = i.mode ∧ i.record row.op = r)

/-- The 26-bit packing of R51 (decision D16, log entry 10): packing and unpacking a record of a size
that fits gives it back, and its fields are at their bit positions: `ob1` from bit 0, `ob0` from bit 8,
the opcode byte from bit 16, the size from bit 24. -/
def Obligations.RecordPackingKeepsFields : Prop :=
  ∀ r : Record, r.size < 4 →
    unpackRecord r.pack = r ∧
    r.pack.toNat = r.size * 2 ^ 24 + r.opCode.toNat * 2 ^ 16 + r.ob0.toNat * 2 ^ 8 + r.ob1.toNat

/-- Words written out from R51, R53 and R58 decode to the instructions they stand for, one or more of
every family, with the published table (decision D1, log entry 5). -/
def Obligations.SpecWordsDecode : Prop :=
  decode publishedTable [0xAD, 0x34, 0x12] = .ok (.ldaAbs 0x1234, []) ∧
  decode publishedTable [0x96, 0xF0] = .ok (.stxZpy 0xF0, []) ∧
  decode publishedTable [0x71, 0x86] = .ok (.adcIzy 0x86, []) ∧
  decode publishedTable [0xFE, 0xFF, 0x11] = .ok (.incAbx 0x11FF, []) ∧
  decode publishedTable [0x0A] = .ok (.aslAcc, []) ∧
  decode publishedTable [0x28] = .ok (.plp, []) ∧
  decode publishedTable [0xF0, 0x10] = .ok (.beq 0x10, []) ∧
  decode publishedTable [0x20, 0x00, 0x03] = .ok (.jsrAbs 0x0300, []) ∧
  decode publishedTable [0x6C, 0x34, 0x12] = .ok (.jmpInd 0x1234, []) ∧
  decode publishedTable [0x00] = .ok (.brk, []) ∧
  decode publishedTable [0x02] = .error (.unknownOpcode 0x02)

/-- When the bytes at the program counter decode to an instruction, the step is that instruction's `exec`
on the state the apply step leaves, whatever the opcode table: with the opcode byte in progress, by which
the costs are read and which the end of the transaction clears; and where the byte is the first the table
gives the instruction, as every byte of the published table is, simply `exec` with none in progress. When
they are a pairing of an executor and a mode that R53 does not list, the step is `execPairing`, which is
`exec` on those it does list (R60, R70, R89; the front-end is decision D9, log entry 8; the byte in
progress and the other pairings are log entries 22 and 21). -/
def Obligations.StepRunsDecodedInstruction : Prop :=
  (∀ (s : State) (i : Instr) (rest : List Byte),
    decode s.config.table [s.load s.pc, s.load (s.pc + 1#16), s.load (s.pc + 2#16)] = .ok (i, rest) →
    step s = mapNext (withOp none) (exec i (withOp (some (s.load s.pc)) (applyPending s)))) ∧
  (∀ (s : State) (i : Instr) (rest : List Byte),
    decode s.config.table [s.load s.pc, s.load (s.pc + 1#16), s.load (s.pc + 2#16)] = .ok (i, rest) →
    s.config.table = publishedTable ∨
      s.config.table.ok = true ∧ s.config.table.opByte i = s.load s.pc →
    step s = exec i (withOp none (applyPending s))) ∧
  (∀ (s : State) (mn : Mnemonic) (o : Operand),
    decode s.config.table [s.load s.pc, s.load (s.pc + 1#16), s.load (s.pc + 2#16)] =
      .error (.unlisted mn o) →
    step s = mapNext (withOp none) (execPairing mn o (withOp (some (s.load s.pc)) (applyPending s)))) ∧
  ∀ (i : Instr) (s : State), i.cls = .tbl ∨ i.cls = .opt →
    exec i s = execPairing i.mnem i.operand s

/-- When memory from the program counter on holds an instruction's bytes, addresses wrapping modulo
65536, the step runs it: with the published table any instruction, with another in which no byte stands
twice any instruction it has (R31 face 4, R40, R60; the front-end is decision D9, log entry 8). -/
def Obligations.StepRunsStoredInstruction : Prop :=
  ∀ (s : State) (i : Instr),
    s.config.table = publishedTable ∨ s.config.table.ok = true ∧ s.config.table.has i = true →
    (∀ k, k < i.size → (encode s.config.table i)[k]? = some (s.load (s.pc + BitVec.ofNat 16 k))) →
    step s = exec i (withOp none (applyPending s))

/-! Faults. -/

/-- With the published table, an opcode byte that R54 lists raises `UnknownOpcode` whatever the record's
other fields and the rest of the state are; the four of R56 do when `INDEX_INCDEC` is false; and with any
table, a byte no row has does, or one that stands only in rows whose pairing does not exist (R54, R56,
R191; the pairings are log entry 21). That `INDEX_INCDEC` and the table are read from the state
is the model's choice (DESIGN CHOICE, log entries 1 and 21; decision D3); which bytes the published table
lacks is the spec's decision D1 (PRESUMED, log entry 5). -/
def Obligations.AbsentOpcodeRaisesUnknownOpcode : Prop :=
  (∀ (ins : Record) (s : State), s.config.table = publishedTable →
    (ins.opCode ∈ absentBytes ∨ ins.opCode ∈ optionalBytes ∧ s.config.indexIncdec = false) →
    execute ins s = .fault (.unknownOpcode ins.opCode)) ∧
  ∀ (ins : Record) (s : State),
    (∀ row ∈ s.config.table, row.op = ins.opCode → row.mnem.takes row.mode = false) →
    execute ins s = .fault (.unknownOpcode ins.opCode)

/-- JMP indirect raises `UnsupportedAddressingMode` with its opcode byte, the one in progress, for every
operand and every state; in the published table the byte is `0x6C`, and with that table every transaction
whose opcode byte is `0x6C` raises it (R55, R180, R192). That `0x6C` is the byte is the spec's decision
D1 (PRESUMED, log entry 5), and the table is a parameter (log entry 21). -/
def Obligations.JmpIndirectRaisesUnsupportedMode : Prop :=
  (∀ (a : Addr) (s : State) (op : Byte), s.op = some op →
    exec (.jmpInd a) s = .fault (.unsupportedAddressingMode op)) ∧
  (∀ (a : Addr) (s : State), s.op = none →
    exec (.jmpInd a) s = .fault (.unsupportedAddressingMode (s.config.table.opByte (.jmpInd a)))) ∧
  (∀ a : Addr, publishedTable.opByte (.jmpInd a) = 0x6C) ∧
  ∀ (ins : Record) (s : State), s.config.table = publishedTable → ins.opCode = 0x6C →
    execute ins s = .fault (.unsupportedAddressingMode 0x6C)

/-- Nothing else faults, and no step is refused: with the published table, a step from a state whose
opcode byte is neither `0x6C` nor absent from it ends in a next state; and so does a step with any table
whose row for the byte, whichever executor and mode it pairs, is not JMP indirect, and is one of INX, INY,
DEX and DEY only when `INDEX_INCDEC` is true (R190, R194; the bytes are decision D1, log entry 5; the
pairings are log entry 21). -/
def Obligations.NothingElseFaults : Prop :=
  (∀ s : State, s.config.table = publishedTable →
    s.load s.pc ≠ 0x6C → s.load s.pc ∉ absentBytes →
    (s.load s.pc ∈ optionalBytes → s.config.indexIncdec = true) → ∃ t, step s = .next t) ∧
  ∀ (s : State) (row : TableRow), s.config.table.rowAt (s.load s.pc) = some row →
    ¬ (row.mnem = .jmp ∧ row.mode = .ind) →
    (row.mnem ∈ [.inx, .iny, .dex, .dey] → s.config.indexIncdec = true) →
    ∃ t, step s = .next t

/-! The deferred latch. -/

/-- The apply step is the first action of every transaction: a pending value is written to `I` and the
latch cleared, nothing else changes, and the transaction sees only the state it leaves (R71). -/
def Obligations.ApplyStepComesFirst : Prop :=
  (∀ (s : State) (b : Bool), s.pend = some b →
    applyPending s = { s with flags := { s.flags with i := b }, pend := none }) ∧
  (∀ s : State, s.pend = none → applyPending s = s) ∧
  ∀ (ins : Record) (s : State), execute ins s = execute ins (applyPending s)

/-- After every completed step `PEND` is what that step's mnemonic staged: `Some(0)` for CLI, `Some(1)` for
SEI, the interrupt-disable bit of the popped byte for PLP (bit 2 by default: decision D2, log entry 4),
and `None` for every other mnemonic (R17). -/
def Obligations.LatchHoldsOnlyWhatWasStaged : Prop :=
  ∀ (s t : State) (row : TableRow), s.config.table.rowAt (s.load s.pc) = some row → step s = .next t →
    t.pend =
      if row.mnem = .cli then some false
      else if row.mnem = .sei then some true
      else if row.mnem = .plp then
        some ((s.mem.read (inStack (s.sp + 1#8))).getLsbD s.config.flagPos.i)
      else none

/-- CLI then NOP, the source's own example: after CLI alone `I` is as the apply step left it, and after
the NOP it reads as cleared (R155, R71; the two bytes are those of the published table, decision D1, log
entry 5). -/
def Obligations.CliTakesEffectOneInstructionLater : Prop :=
  ∀ s : State, s.config.table = publishedTable → s.load s.pc = 0x58 → s.load (s.pc + 1#16) = 0xEA →
    ∃ t u, step s = .next t ∧ t.flags.i = (applyPending s).flags.i ∧ t.pend = some false ∧
      step t = .next u ∧ u.flags.i = false ∧ u.pend = none

/-! Reset and the invariants of a step. -/

/-- Cold boot leaves every component at the value R19 states, whatever the parameters and the memory
image; and the state right after reset is a cold boot (R19, R210). -/
def Obligations.ColdBootValues : Prop :=
  (∀ (cfg : Config) (m : Memory),
    let s := State.coldBoot cfg m
    s.a = 0x00 ∧ s.x = 0x00 ∧ s.y = 0x00 ∧ s.sp = 0xFF ∧ s.pc = 0x0000 ∧
    s.flags.c = false ∧ s.flags.z = false ∧ s.flags.i = false ∧ s.flags.d = false ∧
    s.flags.v = false ∧ s.flags.n = false ∧ s.cyc = 0 ∧ s.pend = none ∧ s.mem = m) ∧
  ∃ cfg m, State.reset = State.coldBoot cfg m

/-- The memory after reset is canonical and reads as `0x00` everywhere: the model's choice for
`MEM_INIT` (DESIGN CHOICE, log entry 3; decision D10). -/
def Obligations.ResetMemoryReadsMemInit : Prop :=
  Canonical State.reset ∧ ∀ a : Addr, State.reset.load a = 0x00

/-- Every step keeps the canonical form of memory: addresses strictly rising and below 65536, no byte
listed that an unlisted address reads as. The canonical form is the model's representation of the 65536
bytes of R30 (DESIGN CHOICE, log entry 20), and no rule speaks of it; it keeps equal memories equal data,
and every listed address one of R30. -/
def Obligations.StepKeepsMemoryCanonical : Prop :=
  ∀ s t : State, Canonical s → step s = .next t → Canonical t

/-- A completed step of a table-dispatched opcode charges `BASE_CYCLES` of its byte, and one more when
`PAGE_SENSITIVE` holds of its byte and the access crossed a page, and moves `pc` past the instruction,
whatever the table gives the byte (R89, R90); and with the published table every completed step raises
`CYC` by at least 2 and at most 7, modulo `2 ^ w` where the counter has `w` bits (R16, R217; the published
costs are decision D4, log entry 6; the width is decision D11, log entry 7; a table may give one
instruction two bytes, log entry 21). -/
def Obligations.CycleCounterRisesByTwoToSeven : Prop :=
  (∀ (s t : State) (row : TableRow), s.config.table.rowAt (s.load s.pc) = some row →
    row.mnem.cls row.mode = .tbl ∨ row.mnem.cls row.mode = .opt → step s = .next t →
    let o := Operand.assemble row.mnem row.mode (fetch s).ob0 (fetch s).ob1
    t.cyc = laterBy (row.cyc + if row.pcs = true ∧ operandCrossed o s = true then 1 else 0) s ∧
    t.pc = s.pc + BitVec.ofNat 16 row.mode.size) ∧
  ∀ s t : State, s.config.table = publishedTable → step s = .next t →
    ∃ k, 2 ≤ k ∧ k ≤ 7 ∧ t.cyc = laterBy k s

/-- No step changes the parameters: the opcode table is a constant of the hardware (R21). No step reads an
opcode byte left in progress before it, nor leaves one. That both are held in the state is the model's
choice (DESIGN CHOICE, log entries 21 and 22). -/
def Obligations.StepKeepsConfig : Prop :=
  (∀ s t : State, step s = .next t → t.config = s.config ∧ t.op = none) ∧
  ∀ (s : State) (op : Option Byte), step (withOp op s) = step s

/-! Memory and the resolver. -/

/-- `MemWrite` then `MemRead`: the byte written is read back, every other address reads as before, and
nothing but memory changes (R35). -/
def Obligations.ReadAfterWrite : Prop :=
  ∀ (s : State) (a : Addr) (v : Byte),
    (s.store a v).load a = v ∧ (∀ b : Addr, b ≠ a → (s.store a v).load b = s.load b) ∧
    ∃ m, s.store a v = { s with mem := m }

/-- The operand of each mode from the operand bytes of the record, the index registers and the zero page,
with whether it crosses a page: the immediate byte, the effective address of each memory mode, and the
target of JMP absolute and JSR and the pointer of JMP indirect, assembled in the same way as an absolute
address (R77 to R86). -/
def Obligations.EffectiveAddressOfEachMode : Prop :=
  ∀ (r : Record) (i : Instr) (s : State), decodeRecord s.config.table r = .ok i →
    let d := r.ob0.toNat
    let base := r.ob0.toNat * 256 + r.ob1.toNat
    let pointer (p : Nat) : Nat :=
      (s.mem.read ((p + 1) % 256)).toNat * 256 + (s.mem.read p).toNat
    let crossed := operandCrossed i.operand s
    (i.mode = .acc → operandValue i.operand s = some s.a ∧ crossed = false) ∧
    (i.mode = .imm → operandValue i.operand s = some r.ob0 ∧ crossed = false) ∧
    (∀ a : Addr, i.operand = .target a ∨ i.operand = .ind a → a.toNat = base) ∧
    ∀ ea : Addr, operandAddr i.operand s = some ea →
      operandValue i.operand s = some (s.load ea) ∧
      ((i.mode = .zp ∧ ea.toNat = d ∧ crossed = false) ∨
       (i.mode = .zpx ∧ ea.toNat = (d + s.x.toNat) % 256 ∧ crossed = false) ∨
       (i.mode = .zpy ∧ ea.toNat = (d + s.y.toNat) % 256 ∧ crossed = false) ∨
       (i.mode = .abs ∧ ea.toNat = base ∧ crossed = false) ∨
       (i.mode = .abx ∧ ea.toNat = (base + s.x.toNat) % 65536 ∧
        crossed = decide (base / 256 ≠ ea.toNat / 256)) ∨
       (i.mode = .aby ∧ ea.toNat = (base + s.y.toNat) % 65536 ∧
        crossed = decide (base / 256 ≠ ea.toNat / 256)) ∨
       (i.mode = .izx ∧ ea.toNat = pointer ((d + s.x.toNat) % 256) ∧ crossed = false) ∨
       (i.mode = .izy ∧ ea.toNat = (pointer d + s.y.toNat) % 65536 ∧
        crossed = decide (pointer d / 256 ≠ ea.toNat / 256)))

/-- A page is crossed exactly when the high byte changes; only `abx`, `aby` and `izy` have a base and an
index (R88). The three clauses that it is so exactly when the low byte of the base plus the index exceeds
255 are what R88 itself marks as derived, from 16-bit addition carrying into the high byte. -/
def Obligations.PageCrossIsCarryIntoHighByte : Prop :=
  ∀ (s : State) (a : Addr) (d : Byte),
    (pageCrossed (.abx a) s = true ↔ a.toNat % 256 + s.x.toNat > 255) ∧
    (pageCrossed (.aby a) s = true ↔ a.toNat % 256 + s.y.toNat > 255) ∧
    (pageCrossed (.izy d) s = true ↔ (s.mem.read d.toNat).toNat + s.y.toNat > 255) ∧
    (pageCrossed (.abx a) s = true ↔
      (effectiveAddr (.abx a) s).toNat / 256 ≠ a.toNat / 256) ∧
    (pageCrossed (.aby a) s = true ↔
      (effectiveAddr (.aby a) s).toNat / 256 ≠ a.toNat / 256) ∧
    (pageCrossed (.izy d) s = true ↔ (effectiveAddr (.izy d) s).toNat / 256 ≠
      (s.mem.read ((d.toNat + 1) % 256)).toNat) ∧
    pageCrossed (.zp d) s = false ∧ pageCrossed (.zpx d) s = false ∧
    pageCrossed (.zpy d) s = false ∧ pageCrossed (.abs a) s = false ∧
    pageCrossed (.izx d) s = false

/-- The page-cross-sensitive opcodes of the published table are the 23 of R89 (decision D5, log
entry 6). -/
def Obligations.PageSensitiveOpcodes : Prop :=
  ∀ i : Instr, publishedTable.pageSensitive i = true ↔
    publishedTable.opByte i ∈ ([0x7D, 0x79, 0x71, 0x3D, 0x39, 0x31, 0xDD, 0xD9, 0xD1, 0x5D, 0x59,
      0x51, 0xBD, 0xB9, 0xB1, 0x1D, 0x19, 0x11, 0xFD, 0xF9, 0xF1, 0xBE, 0xBC] : List Byte)

/-! Loads, stores and transfers. -/

/-- LDA (R100). The flags written are the spec's decision D15 (log entry 15). -/
def Obligations.LdaLoadsAccumulator : Prop :=
  HasForms .lda [(0xA9, .imm, 2, false), (0xA5, .zp, 3, false), (0xB5, .zpx, 4, false),
    (0xAD, .abs, 4, false), (0xBD, .abx, 4, true), (0xB9, .aby, 4, true), (0xA1, .izx, 6, false),
    (0xB1, .izy, 5, true)] ∧
  ∀ (i : Instr) (s : State), i.mnem = .lda →
    ∃ v, operandValue i.operand s = some v ∧
      exec i s = .next (afterTable i s { s with a := v, flags := zn s.flags v })

/-- LDX and LDY (R101, R102). The flags written are the spec's decision D15 (log entry 15). -/
def Obligations.LdxLdyLoadIndex : Prop :=
  HasForms .ldx [(0xA2, .imm, 2, false), (0xA6, .zp, 3, false), (0xB6, .zpy, 4, false),
    (0xAE, .abs, 4, false), (0xBE, .aby, 4, true)] ∧
  HasForms .ldy [(0xA0, .imm, 2, false), (0xA4, .zp, 3, false), (0xB4, .zpx, 4, false),
    (0xAC, .abs, 4, false), (0xBC, .abx, 4, true)] ∧
  (∀ (i : Instr) (s : State), i.mnem = .ldx →
    ∃ v, operandValue i.operand s = some v ∧
      exec i s = .next (afterTable i s { s with x := v, flags := zn s.flags v })) ∧
  ∀ (i : Instr) (s : State), i.mnem = .ldy →
    ∃ v, operandValue i.operand s = some v ∧
      exec i s = .next (afterTable i s { s with y := v, flags := zn s.flags v })

/-- STA, STX and STY (R103, R104, R105). That no flag is written is the spec's decision D15 (log
entry 15). -/
def Obligations.StoresWriteRegister : Prop :=
  HasForms .sta [(0x85, .zp, 3, false), (0x95, .zpx, 4, false), (0x8D, .abs, 4, false),
    (0x9D, .abx, 5, false), (0x99, .aby, 5, false), (0x81, .izx, 6, false), (0x91, .izy, 6, false)] ∧
  HasForms .stx [(0x86, .zp, 3, false), (0x96, .zpy, 4, false), (0x8E, .abs, 4, false)] ∧
  HasForms .sty [(0x84, .zp, 3, false), (0x94, .zpx, 4, false), (0x8C, .abs, 4, false)] ∧
  ∀ (i : Instr) (s : State) (v : Byte),
    (i.mnem = .sta ∧ v = s.a ∨ i.mnem = .stx ∧ v = s.x ∨ i.mnem = .sty ∧ v = s.y) →
    ∃ ea, operandAddr i.operand s = some ea ∧
      exec i s = .next (afterTable i s { s with mem := s.mem.write ea.toNat v })

/-- TAX, TAY, TXA, TYA, TSX and TXS (R106 to R111). The flags written are the spec's decision D15 (log
entry 15). -/
def Obligations.TransfersCopyRegisters : Prop :=
  HasForms .tax [(0xAA, .imp, 2, false)] ∧ HasForms .tay [(0xA8, .imp, 2, false)] ∧
  HasForms .txa [(0x8A, .imp, 2, false)] ∧ HasForms .tya [(0x98, .imp, 2, false)] ∧
  HasForms .tsx [(0xBA, .imp, 2, false)] ∧ HasForms .txs [(0x9A, .imp, 2, false)] ∧
  ∀ s : State,
    exec .tax s = .next (afterTable .tax s { s with x := s.a, flags := zn s.flags s.a }) ∧
    exec .tay s = .next (afterTable .tay s { s with y := s.a, flags := zn s.flags s.a }) ∧
    exec .txa s = .next (afterTable .txa s { s with a := s.x, flags := zn s.flags s.x }) ∧
    exec .tya s = .next (afterTable .tya s { s with a := s.y, flags := zn s.flags s.y }) ∧
    exec .tsx s = .next (afterTable .tsx s { s with x := s.sp, flags := zn s.flags s.sp }) ∧
    exec .txs s = .next (afterTable .txs s { s with sp := s.x })

/-! Arithmetic and logic. -/

/-- ADC (R120); the decimal flag plays no part (R135). -/
def Obligations.AdcAddsWithCarry : Prop :=
  HasForms .adc [(0x69, .imm, 2, false), (0x65, .zp, 3, false), (0x75, .zpx, 4, false),
    (0x6D, .abs, 4, false), (0x7D, .abx, 4, true), (0x79, .aby, 4, true), (0x61, .izx, 6, false),
    (0x71, .izy, 5, true)] ∧
  ∀ (i : Instr) (s : State), i.mnem = .adc →
    ∃ m, operandValue i.operand s = some m ∧
      let sum := s.a.toNat + m.toNat + s.flags.c.toNat
      let r := BitVec.ofNat 8 sum
      exec i s = .next (afterTable i s { s with
        a := r
        flags := { zn s.flags r with
          c := decide (sum > 255)
          v := decide ((r ^^^ s.a) &&& (r ^^^ m) &&& 0x80#8 ≠ 0#8) } })

/-- SBC (R121), for both values of `SBC_V_COMPLEMENT` (decision D6, log entry 2). -/
def Obligations.SbcSubtractsWithBorrow : Prop :=
  HasForms .sbc [(0xE9, .imm, 2, false), (0xE5, .zp, 3, false), (0xF5, .zpx, 4, false),
    (0xED, .abs, 4, false), (0xFD, .abx, 4, true), (0xF9, .aby, 4, true), (0xE1, .izx, 6, false),
    (0xF1, .izy, 5, true)] ∧
  ∀ (i : Instr) (s : State), i.mnem = .sbc →
    ∃ m, operandValue i.operand s = some m ∧
      let mc := 255 - m.toNat
      let sum := s.a.toNat + mc + s.flags.c.toNat
      let r := BitVec.ofNat 8 sum
      let vop := if s.config.sbcVComplement = true then BitVec.ofNat 8 mc else m
      exec i s = .next (afterTable i s { s with
        a := r
        flags := { zn s.flags r with
          c := decide (sum > 255)
          v := decide ((r ^^^ s.a) &&& (r ^^^ vop) &&& 0x80#8 ≠ 0#8) } })

/-- AND, ORA and EOR (R122, R123, R124). The flags written are the spec's decision D15 (log entry 15). -/
def Obligations.LogicWritesAccumulator : Prop :=
  HasForms .and [(0x29, .imm, 2, false), (0x25, .zp, 3, false), (0x35, .zpx, 4, false),
    (0x2D, .abs, 4, false), (0x3D, .abx, 4, true), (0x39, .aby, 4, true), (0x21, .izx, 6, false),
    (0x31, .izy, 5, true)] ∧
  HasForms .ora [(0x09, .imm, 2, false), (0x05, .zp, 3, false), (0x15, .zpx, 4, false),
    (0x0D, .abs, 4, false), (0x1D, .abx, 4, true), (0x19, .aby, 4, true), (0x01, .izx, 6, false),
    (0x11, .izy, 5, true)] ∧
  HasForms .eor [(0x49, .imm, 2, false), (0x45, .zp, 3, false), (0x55, .zpx, 4, false),
    (0x4D, .abs, 4, false), (0x5D, .abx, 4, true), (0x59, .aby, 4, true), (0x41, .izx, 6, false),
    (0x51, .izy, 5, true)] ∧
  ∀ (i : Instr) (s : State), i.mnem ∈ [.and, .ora, .eor] →
    ∃ m, operandValue i.operand s = some m ∧
      let r := if i.mnem = .and then s.a &&& m else if i.mnem = .ora then s.a ||| m else s.a ^^^ m
      exec i s = .next (afterTable i s { s with a := r, flags := zn s.flags r })

/-- BIT (R125). Its Z and N are the spec's decision D7 (log entry 15). -/
def Obligations.BitTestsMemory : Prop :=
  HasForms .bit [(0x24, .zp, 3, false), (0x2C, .abs, 4, false)] ∧
  ∀ (i : Instr) (s : State), i.mnem = .bit →
    ∃ m, operandValue i.operand s = some m ∧
      exec i s = .next (afterTable i s { s with
        flags := { s.flags with
          z := decide (s.a &&& m = 0#8), v := m.getLsbD 6, n := m.getLsbD 7 } })

/-- CMP, CPX and CPY (R126, R127, R128). The flags written are the spec's decision D15 (log entry 15). -/
def Obligations.ComparesSetCarryZeroNegative : Prop :=
  HasForms .cmp [(0xC9, .imm, 2, false), (0xC5, .zp, 3, false), (0xD5, .zpx, 4, false),
    (0xCD, .abs, 4, false), (0xDD, .abx, 4, true), (0xD9, .aby, 4, true), (0xC1, .izx, 6, false),
    (0xD1, .izy, 5, true)] ∧
  HasForms .cpx [(0xE0, .imm, 2, false), (0xE4, .zp, 3, false), (0xEC, .abs, 4, false)] ∧
  HasForms .cpy [(0xC0, .imm, 2, false), (0xC4, .zp, 3, false), (0xCC, .abs, 4, false)] ∧
  ∀ (i : Instr) (s : State) (reg : Byte),
    (i.mnem = .cmp ∧ reg = s.a ∨ i.mnem = .cpx ∧ reg = s.x ∨ i.mnem = .cpy ∧ reg = s.y) →
    ∃ m, operandValue i.operand s = some m ∧
      exec i s = .next (afterTable i s { s with
        flags := { s.flags with
          c := decide (m.toNat ≤ reg.toNat), z := decide (reg = m), n := (reg - m).getLsbD 7 } })

/-- INC and DEC (R129, R130). The flags written are the spec's decision D15 (log entry 15). -/
def Obligations.IncDecChangeMemoryByOne : Prop :=
  HasForms .inc [(0xE6, .zp, 5, false), (0xF6, .zpx, 6, false), (0xEE, .abs, 6, false),
    (0xFE, .abx, 7, false)] ∧
  HasForms .dec [(0xC6, .zp, 5, false), (0xD6, .zpx, 6, false), (0xCE, .abs, 6, false),
    (0xDE, .abx, 7, false)] ∧
  ∀ (i : Instr) (s : State), i.mnem ∈ [.inc, .dec] →
    ∃ ea, operandAddr i.operand s = some ea ∧
      let v := s.mem.read ea.toNat
      let r := if i.mnem = .inc then v + 1#8 else v - 1#8
      exec i s = .next (afterTable i s
        { s with mem := s.mem.write ea.toNat r, flags := zn s.flags r })

/-- INX, INY, DEX and DEY when `INDEX_INCDEC` is true (R131 to R134; decision D3, log entry 1). -/
def Obligations.IndexIncDecWhenPresent : Prop :=
  HasForms .inx [(0xE8, .imp, 2, false)] ∧ HasForms .iny [(0xC8, .imp, 2, false)] ∧
  HasForms .dex [(0xCA, .imp, 2, false)] ∧ HasForms .dey [(0x88, .imp, 2, false)] ∧
  ∀ s : State, s.config.indexIncdec = true →
    exec .inx s = .next (afterTable .inx s
      { s with x := s.x + 1#8, flags := zn s.flags (s.x + 1#8) }) ∧
    exec .iny s = .next (afterTable .iny s
      { s with y := s.y + 1#8, flags := zn s.flags (s.y + 1#8) }) ∧
    exec .dex s = .next (afterTable .dex s
      { s with x := s.x - 1#8, flags := zn s.flags (s.x - 1#8) }) ∧
    exec .dey s = .next (afterTable .dey s
      { s with y := s.y - 1#8, flags := zn s.flags (s.y - 1#8) })

/-- INX, INY, DEX and DEY when `INDEX_INCDEC` is false raise `UnknownOpcode` with their opcode byte, the
one in progress, which the published table makes `0xE8`, `0xC8`, `0xCA` and `0x88` (R54, R56; decision D3,
log entry 1; the bytes are decision D1, log entry 5; the byte in progress is log entry 22). -/
def Obligations.IndexIncDecWhenAbsent : Prop :=
  (∀ (s : State) (i : Instr), i.mnem ∈ [.inx, .iny, .dex, .dey] → s.config.indexIncdec = false →
    (∀ op, s.op = some op → exec i s = .fault (.unknownOpcode op)) ∧
    (s.op = none → exec i s = .fault (.unknownOpcode (s.config.table.opByte i)))) ∧
  publishedTable.opByte .inx = 0xE8 ∧ publishedTable.opByte .iny = 0xC8 ∧
  publishedTable.opByte .dex = 0xCA ∧ publishedTable.opByte .dey = 0x88

/-- ADC's V is signed overflow: the signed sum of `A`, the operand and the carry lies outside
−128..127; and its C is unsigned overflow (R120; property T1). -/
def Obligations.AdcOverflowIsSigned : Prop :=
  ∀ (i : Instr) (s : State), i.mnem = .adc →
    ∃ m t, operandValue i.operand s = some m ∧ exec i s = .next t ∧
      let signed := s.a.toInt + m.toInt + (s.flags.c.toNat : Int)
      (t.flags.v = true ↔ signed < -128 ∨ 127 < signed) ∧
      (t.flags.c = true ↔ s.a.toNat + m.toNat + s.flags.c.toNat > 255)

/-- SBC gives the difference with borrow, C means no borrow, and with `SBC_V_COMPLEMENT` true its V is
signed overflow of the difference (R121; property T2). -/
def Obligations.SbcDifferenceAndOverflow : Prop :=
  ∀ (i : Instr) (s : State), i.mnem = .sbc → s.config.sbcVComplement = true →
    ∃ m t, operandValue i.operand s = some m ∧ exec i s = .next t ∧
      let borrow : Int := 1 - (s.flags.c.toNat : Int)
      (t.a.toNat : Int) = ((s.a.toNat : Int) - m.toNat - borrow) % 256 ∧
      (t.flags.c = true ↔ (s.a.toNat : Int) - m.toNat - borrow ≥ 0) ∧
      (t.flags.v = true ↔ s.a.toInt - m.toInt - borrow < -128 ∨ 127 < s.a.toInt - m.toInt - borrow)

/-- With `SBC_V_COMPLEMENT` true, SBC of a byte is ADC of its complement in every component of the
state, `CYC` included, wherever the two immediate forms have one base cost, as they do in the published
table (R121; property T3). -/
def Obligations.SbcIsAdcOfComplement : Prop :=
  (∀ (m : Byte) (s : State), s.config.sbcVComplement = true →
    rowCycles (s.row .sbc .imm) = rowCycles (s.row .adc .imm) →
    exec (.sbcImm m) s = exec (.adcImm (m ^^^ 0xFF#8)) s) ∧
  ∀ m n : Byte, publishedTable.baseCycles (.sbcImm m) = publishedTable.baseCycles (.adcImm n)

/-- Neither the decimal nor the interrupt-disable flag has a reader but PHP and BRK: flipping it before
an instruction flips it after and changes nothing else, and an instruction that writes it gives the
same outcome either way (R135, R195; properties T13, T14). -/
def Obligations.DecimalAndInterruptFlagsNeverRead : Prop :=
  (∀ (i : Instr) (s : State) (b : Bool), i.mnem ∉ [.php, .brk, .cld, .sed, .plp, .rti] →
    exec i (withD b s) = mapNext (withD b) (exec i s)) ∧
  (∀ (i : Instr) (s : State) (b : Bool), i.mnem ∈ [.cld, .sed, .plp, .rti] →
    exec i (withD b s) = exec i s) ∧
  (∀ (i : Instr) (s : State) (b : Bool), i.mnem ∉ [.php, .brk, .rti] →
    exec i (withI b s) = mapNext (withI b) (exec i s)) ∧
  ∀ (s : State) (b : Bool), exec .rti (withI b s) = exec .rti s

/-- Nothing but `CYC` itself depends on `CYC` (R217): a step from a state with a higher count gives the
same outcome with the count higher by as much, whatever the width of the counter. -/
def Obligations.NothingDependsOnCycleCount : Prop :=
  ∀ (s : State) (k : Nat),
    step { s with cyc := laterBy k s } = mapNext (fun t => { t with cyc := laterBy k t }) (step s)

/-! Shifts and rotates. -/

/-- ASL and LSR (R140, R141, R144). The fill bits are the spec's decision D23 (log entry 15). -/
def Obligations.ShiftsFillWithZero : Prop :=
  HasForms .asl [(0x0A, .acc, 2, false), (0x06, .zp, 5, false), (0x16, .zpx, 6, false),
    (0x0E, .abs, 6, false), (0x1E, .abx, 7, false)] ∧
  HasForms .lsr [(0x4A, .acc, 2, false), (0x46, .zp, 5, false), (0x56, .zpx, 6, false),
    (0x4E, .abs, 6, false), (0x5E, .abx, 7, false)] ∧
  (∀ (i : Instr) (s : State), i.mnem = .asl →
    ∃ v, operandValue i.operand s = some v ∧
      let r := BitVec.ofNat 8 (v.toNat * 2)
      exec i s = .next (afterTable i s
        { written i.operand s r with flags := { zn s.flags r with c := v.getLsbD 7 } })) ∧
  ∀ (i : Instr) (s : State), i.mnem = .lsr →
    ∃ v, operandValue i.operand s = some v ∧
      let r := BitVec.ofNat 8 (v.toNat / 2)
      exec i s = .next (afterTable i s
        { written i.operand s r with flags := { zn s.flags r with c := v.getLsbD 0 } })

/-- ROL and ROR (R142, R143, R144). The way through the carry is the spec's decision D23 (log
entry 15). -/
def Obligations.RotatesGoThroughCarry : Prop :=
  HasForms .rol [(0x2A, .acc, 2, false), (0x26, .zp, 5, false), (0x36, .zpx, 6, false),
    (0x2E, .abs, 6, false), (0x3E, .abx, 7, false)] ∧
  HasForms .ror [(0x6A, .acc, 2, false), (0x66, .zp, 5, false), (0x76, .zpx, 6, false),
    (0x6E, .abs, 6, false), (0x7E, .abx, 7, false)] ∧
  (∀ (i : Instr) (s : State), i.mnem = .rol →
    ∃ v, operandValue i.operand s = some v ∧
      let r := BitVec.ofNat 8 (v.toNat * 2 + s.flags.c.toNat)
      exec i s = .next (afterTable i s
        { written i.operand s r with flags := { zn s.flags r with c := v.getLsbD 7 } })) ∧
  ∀ (i : Instr) (s : State), i.mnem = .ror →
    ∃ v, operandValue i.operand s = some v ∧
      let r := BitVec.ofNat 8 (v.toNat / 2 + s.flags.c.toNat * 128)
      exec i s = .next (afterTable i s
        { written i.operand s r with flags := { zn s.flags r with c := v.getLsbD 0 } })

/-- Nine rotations of the accumulator in a row, in either direction, restore it and the carry
(R142, R143; property T9). -/
def Obligations.NineRotationsRestore : Prop :=
  ∀ (i : Instr) (s : State), i = .rolAcc ∨ i = .rorAcc →
    ∃ t, execAll (List.replicate 9 i) s = .next t ∧ t.a = s.a ∧ t.flags.c = s.flags.c

/-! Flag instructions, stack and NOP. -/

/-- CLC, SEC, CLD, SED and CLV (R150 to R154). -/
def Obligations.FlagInstructionsSetOneFlag : Prop :=
  HasForms .clc [(0x18, .imp, 2, false)] ∧ HasForms .sec [(0x38, .imp, 2, false)] ∧
  HasForms .cld [(0xD8, .imp, 2, false)] ∧ HasForms .sed [(0xF8, .imp, 2, false)] ∧
  HasForms .clv [(0xB8, .imp, 2, false)] ∧
  ∀ s : State,
    exec .clc s = .next (afterTable .clc s { s with flags := { s.flags with c := false } }) ∧
    exec .sec s = .next (afterTable .sec s { s with flags := { s.flags with c := true } }) ∧
    exec .cld s = .next (afterTable .cld s { s with flags := { s.flags with d := false } }) ∧
    exec .sed s = .next (afterTable .sed s { s with flags := { s.flags with d := true } }) ∧
    exec .clv s = .next (afterTable .clv s { s with flags := { s.flags with v := false } })

/-- CLI and SEI write the latch and not `I` (R155, R156). -/
def Obligations.CliSeiStageTheLatch : Prop :=
  HasForms .cli [(0x58, .imp, 2, false)] ∧ HasForms .sei [(0x78, .imp, 2, false)] ∧
  ∀ s : State,
    exec .cli s = .next (afterTable .cli s { s with pend := some false }) ∧
    exec .sei s = .next (afterTable .sei s { s with pend := some true })

/-- PHA and PHP (R157, R160, R162, R163). The places of the flags in the pushed byte are the parameter of
the spec's decision D2 (log entry 4); `StatusByteRoundTrip` says what the byte is. -/
def Obligations.PushesStoreThenDecrement : Prop :=
  HasForms .pha [(0x48, .imp, 3, false)] ∧ HasForms .php [(0x08, .imp, 3, false)] ∧
  ∀ s : State,
    exec .pha s = .next (afterTable .pha s
      { s with mem := s.mem.write (inStack s.sp) s.a, sp := s.sp - 1#8 }) ∧
    exec .php s = .next (afterTable .php s
      { s with
        mem := s.mem.write (inStack s.sp) (encodeStatus s.config.flagPos s.flags)
        sp := s.sp - 1#8 })

/-- PLA (R158, R164). The flags written are the spec's decision D15 (log entry 15). -/
def Obligations.PlaPopsAccumulator : Prop :=
  HasForms .pla [(0x68, .imp, 4, false)] ∧
  ∀ s : State,
    let v := s.mem.read (inStack (s.sp + 1#8))
    exec .pla s = .next (afterTable .pla s
      { s with a := v, sp := s.sp + 1#8, flags := zn s.flags v })

/-- PLP (R161, R165). The places of the flags in the popped byte are the parameter of the spec's decision
D2 (log entry 4): by default C 0, Z 1, I 2, D 3, V 6, N 7. -/
def Obligations.PlpPopsFlagsAndStagesI : Prop :=
  HasForms .plp [(0x28, .imp, 4, false)] ∧
  ∀ s : State,
    let b := s.mem.read (inStack (s.sp + 1#8))
    let p := s.config.flagPos
    exec .plp s = .next (afterTable .plp s
      { s with
        sp := s.sp + 1#8
        flags := { s.flags with
          c := b.getLsbD p.c, z := b.getLsbD p.z, d := b.getLsbD p.d,
          v := b.getLsbD p.v, n := b.getLsbD p.n }
        pend := some (b.getLsbD p.i) })

/-- NOP (R166). -/
def Obligations.NopOnlyAdvances : Prop :=
  HasForms .nop [(0xEA, .imp, 2, false)] ∧
  (∀ s : State, exec .nop s = .next (afterTable .nop s s)) ∧
  ∀ s : State, s.config.table = publishedTable → s.op = none ∨ s.op = some 0xEA →
    exec .nop s = .next { s with pc := s.pc + 1#16, cyc := laterBy 2 s }

/-- `push` stores at the old `SP` and decrements it, `pop` increments `SP` and reads there; a push then
a pop returns the byte, restores `SP` and changes no byte but the one at the old `SP`; `push16` pushes
the high byte first and `pop16` pops the low byte first (R157, R158, R159; property T5). The last clause,
that `push16` then `pop16` gives the word back and restores `SP`, is what R159 itself marks as derived
from R157 and R158. -/
def Obligations.PopReturnsWhatPushStored : Prop :=
  (∀ (s : State) (b : Byte),
    s.push b = { s with mem := s.mem.write (inStack s.sp) b, sp := s.sp - 1#8 } ∧
    s.popped = { s with sp := s.sp + 1#8 } ∧ s.top = s.mem.read (inStack (s.sp + 1#8))) ∧
  (∀ (s : State) (w : Addr),
    s.push16 w = (s.push (BitVec.ofNat 8 (w.toNat / 256))).push (BitVec.ofNat 8 (w.toNat % 256)) ∧
    s.popped16 = s.popped.popped ∧ s.top16.toNat = s.popped.top.toNat * 256 + s.top.toNat) ∧
  (∀ (s : State) (b : Byte), (s.push b).top = b ∧ (s.push b).popped.sp = s.sp ∧
    ∀ a : Addr, a.toNat ≠ inStack s.sp → (s.push b).popped.load a = s.load a) ∧
  ∀ (s : State) (w : Addr), (s.push16 w).top16 = w ∧ (s.push16 w).popped16.sp = s.sp

/-- What the status byte is, for every choice of `FLAG_POS`: a bit is 1 exactly where a flag that is 1, or
one of the two unused bits, has its position; at the default positions it is N V 1 1 D I Z C. With eight
different positions, encoding after decoding gives the byte with the two unused bits set, and decoding
after encoding gives the flags (R160, R161; property T6; decision D2, log entry 4). -/
def Obligations.StatusByteRoundTrip : Prop :=
  (∀ (p : FlagPos) (f : Flags) (k : Fin 8), (encodeStatus p f).getLsbD k = true ↔
    k = p.b ∨ k = p.u ∨ k = p.c ∧ f.c = true ∨ k = p.z ∧ f.z = true ∨ k = p.i ∧ f.i = true ∨
    k = p.d ∧ f.d = true ∨ k = p.v ∧ f.v = true ∨ k = p.n ∧ f.n = true) ∧
  (∀ f : Flags, encodeStatus publishedFlagPos f = statusByte f) ∧
  (∀ (p : FlagPos) (f : Flags) (b : Byte), distinctPositions p = true →
    encodeStatus p (decodeStatus p f b) = b ||| 1#8 <<< (p.b : Nat) ||| 1#8 <<< (p.u : Nat)) ∧
  (∀ (f : Flags) (b : Byte),
    encodeStatus publishedFlagPos (decodeStatus publishedFlagPos f b) = b ||| 0x30#8) ∧
  ∀ (p : FlagPos) (f g : Flags), distinctPositions p = true →
    decodeStatus p g (encodeStatus p f) = f

/-! Control transfer. -/

/-- The eight conditional branches (R170 to R178). Which flag a mnemonic tests is the spec's decision D15,
the page compared is its decision D13 (log entries 15 and 16). -/
def Obligations.BranchesTestOneFlag : Prop :=
  HasEncodings .bcc [(0x90, .rel)] ∧ HasEncodings .bcs [(0xB0, .rel)] ∧
  HasEncodings .beq [(0xF0, .rel)] ∧ HasEncodings .bne [(0xD0, .rel)] ∧
  HasEncodings .bmi [(0x30, .rel)] ∧ HasEncodings .bpl [(0x10, .rel)] ∧
  HasEncodings .bvc [(0x50, .rel)] ∧ HasEncodings .bvs [(0x70, .rel)] ∧
  ∀ (off : Byte) (s : State),
    exec (.bcc off) s = .next (branched s off (!s.flags.c)) ∧
    exec (.bcs off) s = .next (branched s off s.flags.c) ∧
    exec (.beq off) s = .next (branched s off s.flags.z) ∧
    exec (.bne off) s = .next (branched s off (!s.flags.z)) ∧
    exec (.bmi off) s = .next (branched s off s.flags.n) ∧
    exec (.bpl off) s = .next (branched s off (!s.flags.n)) ∧
    exec (.bvc off) s = .next (branched s off (!s.flags.v)) ∧
    exec (.bvs off) s = .next (branched s off s.flags.v)

/-- JMP absolute (R179). -/
def Obligations.JmpAbsoluteSetsPc : Prop :=
  HasEncodings .jmp [(0x4C, .abs), (0x6C, .ind)] ∧
  ∀ (a : Addr) (s : State), exec (.jmpAbs a) s = .next { s with pc := a, cyc := laterBy 3 s }

/-- JSR (R181). -/
def Obligations.JsrPushesReturnAddress : Prop :=
  HasEncodings .jsr [(0x20, .abs)] ∧
  ∀ (a : Addr) (s : State),
    let ret := (s.pc.toNat + 2) % 65536
    exec (.jsrAbs a) s = .next { s with
      mem := (s.mem.write (inStack s.sp) (BitVec.ofNat 8 (ret / 256))).write
        (inStack (s.sp - 1#8)) (BitVec.ofNat 8 (ret % 256))
      sp := s.sp - 2#8
      pc := a
      cyc := laterBy 6 s }

/-- RTS (R182). -/
def Obligations.RtsPopsReturnAddress : Prop :=
  HasEncodings .rts [(0x60, .imp)] ∧
  ∀ s : State,
    let lo := s.mem.read (inStack (s.sp + 1#8))
    let hi := s.mem.read (inStack (s.sp + 2#8))
    exec .rts s = .next { s with
      sp := s.sp + 2#8
      pc := BitVec.ofNat 16 (hi.toNat * 256 + lo.toNat + 1)
      cyc := laterBy 6 s }

/-- BRK, the trap entry (R183, R197). The places of the flags in the pushed byte are the parameter of the
spec's decision D2 (log entry 4); `StatusByteRoundTrip` says what the byte is. -/
def Obligations.BrkTakesTheTrap : Prop :=
  HasEncodings .brk [(0x00, .imp)] ∧
  ∀ s : State,
    let ret := (s.pc.toNat + 2) % 65536
    exec .brk s = .next { s with
      mem := ((s.mem.write (inStack s.sp) (BitVec.ofNat 8 (ret / 256))).write
        (inStack (s.sp - 1#8)) (BitVec.ofNat 8 (ret % 256))).write
        (inStack (s.sp - 2#8)) (encodeStatus s.config.flagPos s.flags)
      sp := s.sp - 3#8
      flags := { s.flags with i := true }
      pc := 0xFFFE
      cyc := laterBy 7 s }

/-- RTI, the return from it (R184, R198). The places of the flags in the popped byte are the parameter of
the spec's decision D2 (log entry 4): by default C 0, Z 1, I 2, D 3, V 6, N 7. -/
def Obligations.RtiRestoresFlagsAndPc : Prop :=
  HasEncodings .rti [(0x40, .imp)] ∧
  ∀ s : State,
    let b := s.mem.read (inStack (s.sp + 1#8))
    let lo := s.mem.read (inStack (s.sp + 2#8))
    let hi := s.mem.read (inStack (s.sp + 3#8))
    let p := s.config.flagPos
    exec .rti s = .next { s with
      sp := s.sp + 3#8
      flags :=
        { c := b.getLsbD p.c, z := b.getLsbD p.z, i := b.getLsbD p.i, d := b.getLsbD p.d,
          v := b.getLsbD p.v, n := b.getLsbD p.n }
      pc := BitVec.ofNat 16 (hi.toNat * 256 + lo.toNat)
      cyc := laterBy 6 s }

/-- JSR then RTS comes back to the instruction after the JSR with `SP` restored, from every state
(R181, R182; property T7). -/
def Obligations.RtsReturnsFromJsr : Prop :=
  ∀ (a : Addr) (s : State), ∃ t u, exec (.jsrAbs a) s = .next t ∧ t.pc = a ∧
    exec .rts t = .next u ∧ u.pc = s.pc + 3#16 ∧ u.sp = s.sp ∧ u.flags = s.flags

/-- A BRK whose handler at `0xFFFE` is an RTI resumes two bytes on with `SP` and all six flags as the
apply step left them, with every `FLAG_POS` of eight different positions, as the default is (R183, R184;
property T8; the two bytes are those of the published table, decision D1, log entry 5). -/
def Obligations.RtiReturnsFromBrk : Prop :=
  ∀ s : State, s.config.table = publishedTable → distinctPositions s.config.flagPos = true →
    s.load s.pc = 0x00 → s.load 0xFFFE#16 = 0x40 →
    ∃ t u, step s = .next t ∧ step t = .next u ∧ u.pc = s.pc + 2#16 ∧ u.sp = s.sp ∧
      u.flags = (applyPending s).flags ∧ u.pend = none

/-! Frames: what each instruction leaves unchanged. -/

/-- `A`, `X`, `Y` and `SP` change only by the instructions R11 and R12 list as writing them; no instruction
writes the model's own fields, the opcode byte in progress and the parameters. -/
def Obligations.RegistersChangeOnlyByTheirWriters : Prop :=
  ∀ (i : Instr) (s t : State), exec i s = .next t →
    (i.mnem ∉ [.lda, .txa, .tya, .pla, .adc, .sbc, .and, .ora, .eor] →
      ¬ (i.mnem ∈ [.asl, .lsr, .rol, .ror] ∧ i.operand = .acc) → t.a = s.a) ∧
    (i.mnem ∉ [.ldx, .tax, .tsx, .inx, .dex] → t.x = s.x) ∧
    (i.mnem ∉ [.ldy, .tay, .iny, .dey] → t.y = s.y) ∧
    (i.mnem ∉ [.pha, .php, .pla, .plp, .jsr, .rts, .brk, .rti, .txs] → t.sp = s.sp) ∧
    t.op = s.op ∧ t.config = s.config

/-- The six flags and the latch change only by the instructions R14 and R17 list as writing them (the
apply step is not part of `exec`). -/
def Obligations.FlagsChangeOnlyByTheirWriters : Prop :=
  ∀ (i : Instr) (s t : State), exec i s = .next t →
    (i.mnem ∉ [.adc, .sbc, .cmp, .cpx, .cpy, .asl, .lsr, .rol, .ror, .clc, .sec, .plp, .rti] →
      t.flags.c = s.flags.c) ∧
    (i.mnem ∉ [.lda, .ldx, .ldy, .tax, .tay, .txa, .tya, .tsx, .pla, .adc, .sbc, .and, .ora, .eor,
        .bit, .cmp, .cpx, .cpy, .inc, .dec, .asl, .lsr, .rol, .ror, .plp, .rti, .inx, .iny, .dex,
        .dey] → t.flags.z = s.flags.z ∧ t.flags.n = s.flags.n) ∧
    (i.mnem ∉ [.brk, .rti] → t.flags.i = s.flags.i) ∧
    (i.mnem ∉ [.cld, .sed, .plp, .rti] → t.flags.d = s.flags.d) ∧
    (i.mnem ∉ [.adc, .sbc, .bit, .clv, .plp, .rti] → t.flags.v = s.flags.v) ∧
    (i.mnem ∉ [.cli, .sei, .plp] → t.pend = s.pend)

/-- Every byte of memory an instruction does not store to reads as before; the addresses it stores to
are computed by the resolver and the stack pointer, and a form that stores nothing has none (R33). -/
def Obligations.MemoryChangesOnlyWhereStored : Prop :=
  ∀ (i : Instr) (s t : State), exec i s = .next t →
    ∀ a : Addr, a ∉ storedAddrs i s → t.load a = s.load a
end

