-- ==== Sys2Proof/Laws/Bits.lean ====
section
/-! SUPPORT. What the byte and address helpers compute. -/

namespace Sys2Proof.Machine

@[simp] theorem hi8_toNat (w : Addr) : (hi8 w).toNat = w.toNat / 256 := by
  have := w.isLt
  simp only [hi8, BitVec.toNat_ofNat]
  omega

@[simp] theorem lo8_toNat (w : Addr) : (lo8 w).toNat = w.toNat % 256 := by
  simp only [lo8, BitVec.toNat_ofNat]

@[simp] theorem word16_toNat (h l : Byte) : (word16 h l).toNat = h.toNat * 256 + l.toNat := by
  have := h.isLt
  have := l.isLt
  simp only [word16, BitVec.toNat_ofNat]
  omega

@[simp] theorem zext16_toNat (b : Byte) : (zext16 b).toNat = b.toNat := by
  have := b.isLt
  simp only [zext16, BitVec.toNat_ofNat]
  omega

@[simp] theorem word16_hi8_lo8 (w : Addr) : word16 (hi8 w) (lo8 w) = w := by
  apply BitVec.eq_of_toNat_eq
  simp only [word16_toNat, hi8_toNat, lo8_toNat]
  omega

@[simp] theorem hi8_word16 (h l : Byte) : hi8 (word16 h l) = h := by
  have := h.isLt
  have := l.isLt
  apply BitVec.eq_of_toNat_eq
  simp only [word16_toNat, hi8_toNat]
  omega

@[simp] theorem lo8_word16 (h l : Byte) : lo8 (word16 h l) = l := by
  have := l.isLt
  apply BitVec.eq_of_toNat_eq
  simp only [word16_toNat, lo8_toNat]
  omega

@[simp] theorem stackAddr_toNat (sp : Byte) : (stackAddr sp).toNat = 256 + sp.toNat := by
  simp [stackAddr]

@[simp] theorem stackAddr_inj (p q : Byte) : stackAddr p = stackAddr q ↔ p = q := by
  constructor
  · intro h
    apply BitVec.eq_of_toNat_eq
    have := congrArg BitVec.toNat h
    simpa using this
  · rintro rfl
    rfl

/-- The sign extension of R5 as an integer, modulo 65536. -/
theorem sext16_toNat (b : Byte) : ((sext16 b).toNat : Int) = b.toInt % 65536 := by
  have := b.isLt
  unfold sext16
  split <;> simp only [BitVec.toNat_ofNat, BitVec.toInt_eq_toNat_cond] <;> split <;> omega

end Sys2Proof.Machine
end

