-- ==== Sys2Proof/Laws/Decode.lean ====
section
/-! SUPPORT. Instructions as pairings of a mnemonic with an operand, and the two readings of an opcode
table, by byte and by pairing. -/

namespace Sys2Proof

open Sys2Proof.Machine

/-! Operands and pairings. -/

/-- The mode of an assembled operand is the one it is assembled for (R52). -/
@[simp] theorem Operand.mode_assemble (mn : Mnemonic) (md : Mode) (b c : Byte) :
    (Operand.assemble mn md b c).mode = md := by
  cases md <;> first | rfl | (unfold Operand.assemble; dsimp only; split <;> rfl)

/-- The operand bytes of an operand assembled from two bytes are those two, but for the unused ones
(R51, R52). -/
theorem Operand.bytes_assemble (mn : Mnemonic) (md : Mode) (b c : Byte) :
    (Operand.assemble mn md b c).bytes =
      if md.size = 1 then (0#8, 0#8) else if md.size = 2 then (b, 0#8) else (b, c) := by
  cases md
  case abs => cases mn <;> simp [Operand.assemble, Operand.bytes, Mode.size]
  all_goals simp [Operand.assemble, Operand.bytes, Mode.size]

/-- The three lengths of R57. -/
theorem Mode.size_cases (md : Mode) : md.size = 1 ∨ md.size = 2 ∨ md.size = 3 := by
  cases md <;> simp [Mode.size]

/-- The unused operand bytes of an instruction are `0x00` (R51). -/
theorem Operand.bytes_unused (o : Operand) :
    (o.mode.size = 1 → o.bytes = (0#8, 0#8)) ∧ (o.mode.size = 2 → o.bytes.2 = 0#8) := by
  cases o <;> try (constructor <;> intro h <;> first | rfl | cases h)
  next m => cases m <;> constructor <;> intro h <;> first | rfl | cases h

section
variable (i : Instr)

theorem Instr.size_cases : i.size = 1 ∨ i.size = 2 ∨ i.size = 3 := i.mode.size_cases

/-- An instruction's operand is assembled from its own operand bytes (R52). -/
theorem Instr.assemble_bytes :
    Operand.assemble i.mnem i.mode i.operand.bytes.1 i.operand.bytes.2 = i.operand := by
  cases i <;> simp [Operand.assemble, Instr.mnem, Instr.mode, Instr.operand, Instr.shape, Operand.mode,
    Operand.bytes]

/-- Every instruction is one of the pairings that exist (R53, R75). -/
@[simp] theorem Instr.takes_mode : i.mnem.takes i.mode = true := by cases i <;> rfl

/-- An instruction is the one of its own mnemonic and operand (R53). -/
@[simp] theorem Instr.ofShape_self : Instr.ofShape i.mnem i.operand = some i := by cases i <;> rfl

end

/-- The instruction of a mnemonic and an operand has them (R53). -/
theorem Instr.of_ofShape {mn : Mnemonic} {o : Operand} {i : Instr} (h : Instr.ofShape mn o = some i) :
    i.mnem = mn ∧ i.operand = o := by
  cases mn <;> cases o <;>
    first
    | (cases h; done)
    | (cases h; exact ⟨rfl, rfl⟩)
    | (next m => cases m <;> first | (cases h; done) | (cases h; exact ⟨rfl, rfl⟩))

/-- Whether R53 lists a pairing does not depend on the operand bytes. -/
theorem Instr.ofShape_assemble_isSome (mn : Mnemonic) (md : Mode) (b c : Byte) :
    (Instr.ofShape mn (Operand.assemble mn md b c)).isSome =
      (Instr.ofShape mn (Operand.assemble mn md 0#8 0#8)).isSome := by
  cases mn <;> (cases md <;> dsimp only [Operand.assemble, Instr.ofShape, Option.isSome])

/-! The rows of a table. -/

theorem Config.table_of_none {cfg : Config} (h : cfg.opcodeTable = none) : cfg.table = publishedTable := by
  simp [Config.table, h]

theorem Config.table_of_some {cfg : Config} {t : OpcodeTable} (h : cfg.opcodeTable = some t) :
    cfg.table = t := by
  simp [Config.table, h]

section
variable {t : OpcodeTable} {op : Byte} {row : TableRow} {i : Instr} {mn : Mnemonic} {md : Mode}

theorem OpcodeTable.rowAt_some (h : t.rowAt op = some row) :
    row ∈ t ∧ row.op = op ∧ row.mnem.takes row.mode = true :=
  ⟨List.mem_of_find?_eq_some h, by simpa using List.find?_some h⟩

theorem OpcodeTable.rowAt_none :
    t.rowAt op = none ↔ ∀ row ∈ t, row.op = op → row.mnem.takes row.mode = false := by
  simp [OpcodeTable.rowAt]

theorem OpcodeTable.rowOf_some (h : t.rowOf mn md = some row) :
    row ∈ t ∧ row.mnem = mn ∧ row.mode = md :=
  ⟨List.mem_of_find?_eq_some h, by simpa using List.find?_some h⟩

theorem OpcodeTable.has_iff : t.has i = true ↔ ∃ row, t.rowOf i.mnem i.mode = some row :=
  Option.isSome_iff_exists

theorem OpcodeTable.has_of_mem (hm : row ∈ t) (hn : row.mnem = i.mnem) (hd : row.mode = i.mode) :
    t.has i = true :=
  List.find?_isSome.2 ⟨row, hm, by simp [hn, hd]⟩

/-- In a table that is a map, a byte stands in one row only. -/
theorem OpcodeTable.row_unique {r q : TableRow} (ho : t.ok = true) (hr : r ∈ t) (hq : q ∈ t)
    (h : r.op = q.op) : r = q := by
  induction t with
  | nil => cases hr
  | cons p rest ih =>
    simp only [OpcodeTable.ok, Bool.and_eq_true, List.all_eq_true, bne_iff_ne, ne_eq] at ho
    obtain er | hr := List.mem_cons.1 hr <;> obtain eq | hq := List.mem_cons.1 hq
    · rw [er, eq]
    · exact absurd (er ▸ h.symm) (ho.1 q hq)
    · exact absurd (eq ▸ h) (ho.1 r hr)
    · exact ih ho.2 hr hq

/-- A row of a pairing that exists is the row of its opcode byte. -/
theorem OpcodeTable.rowAt_of_mem (ho : t.ok = true) (hm : row ∈ t)
    (hp : row.mnem.takes row.mode = true) : t.rowAt row.op = some row := by
  obtain ⟨q, hq⟩ := Option.isSome_iff_exists.1
    (List.find?_isSome.2 ⟨row, hm, by simp [hp]⟩ : (t.rowAt row.op).isSome = true)
  change t.rowAt row.op = some q at hq
  obtain ⟨hqm, hqo, -⟩ := OpcodeTable.rowAt_some hq
  rw [hq, OpcodeTable.row_unique ho hqm hm hqo]

/-- The row of an instruction is the row of its opcode byte. -/
theorem OpcodeTable.rowAt_of_rowOf (ho : t.ok = true) (h : t.rowOf i.mnem i.mode = some row) :
    t.rowAt row.op = some row := by
  obtain ⟨hm, hn, hd⟩ := OpcodeTable.rowOf_some h
  exact OpcodeTable.rowAt_of_mem ho hm (by rw [hn, hd, i.takes_mode])

theorem OpcodeTable.opByte_of_rowOf (h : t.rowOf i.mnem i.mode = some row) : t.opByte i = row.op := by
  simp [OpcodeTable.opByte, rowByte, h]

theorem OpcodeTable.lengthOf_of_rowAt (h : t.rowAt op = some row) : t.lengthOf op = row.mode.size := by
  simp [OpcodeTable.lengthOf, h]

/-- The length a table gives the opcode byte of an instruction it has is the instruction's (R57, R60). -/
theorem OpcodeTable.lengthOf_opByte (ho : t.ok = true) (h : t.has i = true) :
    t.lengthOf (t.opByte i) = i.size := by
  obtain ⟨row, h⟩ := OpcodeTable.has_iff.1 h
  rw [OpcodeTable.opByte_of_rowOf h, OpcodeTable.lengthOf_of_rowAt (OpcodeTable.rowAt_of_rowOf ho h),
    (OpcodeTable.rowOf_some h).2.2]
  rfl

/-- The published table has every instruction (R53). -/
theorem publishedTable_has (i : Instr) : publishedTable.has i = true := by
  cases i <;> rfl

/-- What the published table says of an instruction stands in one of its rows: a claim about every
instruction's byte, cost and sensitivity is one about every row. -/
theorem publishedTable_row (i : Instr) :
    ∃ row ∈ publishedTable, row.mnem = i.mnem ∧ row.mode = i.mode ∧
      publishedTable.rowOf i.mnem i.mode = some row ∧ publishedTable.opByte i = row.op ∧
      publishedTable.baseCycles i = row.cyc ∧ publishedTable.pageSensitive i = row.pcs := by
  obtain ⟨row, h⟩ := OpcodeTable.has_iff.1 (publishedTable_has i)
  obtain ⟨hm, hn, hd⟩ := OpcodeTable.rowOf_some h
  refine ⟨row, hm, hn, hd, h, ?_, ?_, ?_⟩ <;>
    simp [OpcodeTable.opByte, OpcodeTable.baseCycles, OpcodeTable.pageSensitive, h, rowByte, rowCycles,
      rowSensitive]

/-- The published table is a map (R53). -/
theorem publishedTable_ok : publishedTable.ok = true := by decide +kernel

/-- Every row of the published table is the one row of its pairing, which is one that R53 lists. -/
theorem publishedTable_rows : ∀ row ∈ publishedTable,
    publishedTable.rowOf row.mnem row.mode = some row ∧ row.mnem.takes row.mode = true ∧
      (Instr.ofShape row.mnem (Operand.assemble row.mnem row.mode 0#8 0#8)).isSome = true := by
  decide +kernel

/-! Records. -/

/-- An instruction's record under the opcode byte of a row of it is well formed (R59). -/
theorem Instr.record_wf (h : t.rowAt op = some row) (hd : row.mode = i.mode) :
    (i.record op).wf t = true := by
  obtain ⟨u1, u2⟩ := i.operand.bytes_unused
  change i.size = 1 → _ at u1
  change i.size = 2 → _ at u2
  simp only [Record.wf, Record.sizeOk, Record.paddingOk, Instr.record, h, hd]
  obtain e | e | e := i.size_cases <;> simp only [Instr.size] at e u1 u2 ⊢ <;> simp [e] <;> simp_all

/-- An instruction's record is well formed (R59). -/
theorem encodeRecord_wf (ho : t.ok = true) (h : t.has i = true) : (encodeRecord t i).wf t = true := by
  obtain ⟨row, h⟩ := OpcodeTable.has_iff.1 h
  rw [encodeRecord, OpcodeTable.opByte_of_rowOf h]
  exact Instr.record_wf (OpcodeTable.rowAt_of_rowOf ho h) (OpcodeTable.rowOf_some h).2.2

/-- What a well-formed record whose opcode byte is in the table decodes to: the instruction of its row's
mnemonic and the operand assembled from its operand bytes, or that pairing where R53 does not list it. -/
theorem decodeRecord_of_rowAt {r : Record} (hw : r.wf t = true) (h : t.rowAt r.opCode = some row) :
    decodeRecord t r =
      match Instr.ofShape row.mnem (Operand.assemble row.mnem row.mode r.ob0 r.ob1) with
      | some i => .ok i
      | none => .error (.unlisted row.mnem (Operand.assemble row.mnem row.mode r.ob0 r.ob1)) := by
  unfold decodeRecord
  rw [h]
  exact if_pos hw

/-- What a record that decodes is (R52, R53, R59). -/
theorem decodeRecord_ok {r : Record} (h : decodeRecord t r = .ok i) :
    ∃ row, t.rowAt r.opCode = some row ∧ r.wf t = true ∧ row.mnem = i.mnem ∧ row.mode = i.mode ∧
      i.operand = Operand.assemble i.mnem i.mode r.ob0 r.ob1 := by
  unfold decodeRecord at h
  split at h
  · cases h
  · next row hr =>
    split at h
    · next hw =>
      dsimp only at h
      split at h
      · next j hj =>
        cases h
        obtain ⟨hn, ho⟩ := Instr.of_ofShape hj
        have hd : row.mode = i.mode := by rw [Instr.mode, ho, Operand.mode_assemble]
        exact ⟨row, hr, hw, hn.symm, hd, by rw [hn, ← hd, ho]⟩
      · cases h
    · cases h

/-- What a record of a pairing that R53 does not list is. -/
theorem decodeRecord_unlisted {r : Record} {o : Operand} (h : decodeRecord t r = .error (.unlisted mn o)) :
    ∃ row, t.rowAt r.opCode = some row ∧ r.wf t = true ∧ row.mnem = mn ∧
      o = Operand.assemble row.mnem row.mode r.ob0 r.ob1 ∧ Instr.ofShape mn o = none := by
  unfold decodeRecord at h
  split at h
  · cases h
  · next row hr =>
    split at h
    · next hw =>
      dsimp only at h
      split at h
      · cases h
      · next hj =>
        cases h
        exact ⟨row, hr, hw, rfl, rfl, hj⟩
    · cases h

@[simp] theorem assemble_opCode (b1 b2 : Byte) : (assemble t op b1 b2).opCode = op := by
  unfold assemble
  split <;> rfl

/-- The record the front-end assembles is well formed wherever its opcode byte is in the table (R60). -/
theorem assemble_wf {b1 b2 : Byte} (h : t.rowAt op = some row) : (assemble t op b1 b2).wf t = true := by
  unfold assemble
  rw [OpcodeTable.lengthOf_of_rowAt h]
  obtain hs | hs | hs := row.mode.size_cases <;> rw [hs] <;>
    simp [Record.wf, Record.sizeOk, Record.paddingOk, h, hs]

/-- The instruction of a table that is the one of an opcode byte decodes from every record of that byte
assembled from its operand bytes. -/
theorem decodeRecord_record (h : t.rowAt op = some row) (hn : row.mnem = i.mnem)
    (hd : row.mode = i.mode) : decodeRecord t (i.record op) = .ok i := by
  rw [decodeRecord_of_rowAt (Instr.record_wf h hd) h, hn, hd]
  simp [Instr.record, Instr.assemble_bytes]

end

end Sys2Proof
end

