-- ==== Sys2Proof/Laws/Flags.lean ====
section
/-! SUPPORT. The flag each flag computation leaves alone, and the status byte. -/

namespace Sys2Proof.Machine

variable (f : Flags)

@[simp] theorem Flags.setZN_c (v : Byte) : (f.setZN v).c = f.c := rfl
@[simp] theorem Flags.setZN_i (v : Byte) : (f.setZN v).i = f.i := rfl
@[simp] theorem Flags.setZN_d (v : Byte) : (f.setZN v).d = f.d := rfl
@[simp] theorem Flags.setZN_v (v : Byte) : (f.setZN v).v = f.v := rfl

@[simp] theorem Flags.afterSum_i (a m o : Byte) : (f.afterSum a m o).i = f.i := rfl
@[simp] theorem Flags.afterSum_d (a m o : Byte) : (f.afterSum a m o).d = f.d := rfl

@[simp] theorem Flags.afterCompare_i (r m : Byte) : (f.afterCompare r m).i = f.i := rfl
@[simp] theorem Flags.afterCompare_d (r m : Byte) : (f.afterCompare r m).d = f.d := rfl
@[simp] theorem Flags.afterCompare_v (r m : Byte) : (f.afterCompare r m).v = f.v := rfl

@[simp] theorem Flags.afterBit_c (a m : Byte) : (f.afterBit a m).c = f.c := rfl
@[simp] theorem Flags.afterBit_i (a m : Byte) : (f.afterBit a m).i = f.i := rfl
@[simp] theorem Flags.afterBit_d (a m : Byte) : (f.afterBit a m).d = f.d := rfl

@[simp] theorem Flags.afterShift_c (r : Byte) (b : Bool) : (f.afterShift r b).c = b := rfl
@[simp] theorem Flags.afterShift_i (r : Byte) (b : Bool) : (f.afterShift r b).i = f.i := rfl
@[simp] theorem Flags.afterShift_d (r : Byte) (b : Bool) : (f.afterShift r b).d = f.d := rfl
@[simp] theorem Flags.afterShift_v (r : Byte) (b : Bool) : (f.afterShift r b).v = f.v := rfl

@[simp] theorem decodeExceptI_i (p : FlagPos) (b : Byte) : (decodeExceptI p f b).i = f.i := rfl

/-- Decoding does not depend on the flags before (R161): all six are overwritten. -/
theorem decodeStatus_congr (p : FlagPos) (g : Flags) (b : Byte) :
    decodeStatus p f b = decodeStatus p g b := rfl

theorem getLsbD_bitAt (b : Bool) (j k : Fin 8) : (bitAt b j).getLsbD k = (b && decide (k = j)) := by
  revert b j k
  decide

/-- The bits of the status byte (R160). -/
theorem getLsbD_encodeStatus (p : FlagPos) (k : Fin 8) :
    (encodeStatus p f).getLsbD k =
      (f.n && decide (k = p.n) || f.v && decide (k = p.v) || decide (k = p.u) || decide (k = p.b) ||
        f.d && decide (k = p.d) || f.i && decide (k = p.i) || f.z && decide (k = p.z) ||
        f.c && decide (k = p.c)) := by
  simp only [encodeStatus, BitVec.getLsbD_or, getLsbD_bitAt, Bool.true_and]

end Sys2Proof.Machine
end

