-- ==== Sys2Proof/Laws/State.lean ====
section
/-! SUPPORT. One lemma per field per update of State. -/

namespace Sys2Proof.Machine

section
variable (s : State) (v : Byte)

@[simp] theorem State.setA_a : (s.setA v).a = v := rfl
@[simp] theorem State.setA_x : (s.setA v).x = s.x := rfl
@[simp] theorem State.setA_y : (s.setA v).y = s.y := rfl
@[simp] theorem State.setA_sp : (s.setA v).sp = s.sp := rfl
@[simp] theorem State.setA_pc : (s.setA v).pc = s.pc := rfl
@[simp] theorem State.setA_flags : (s.setA v).flags = s.flags := rfl
@[simp] theorem State.setA_pend : (s.setA v).pend = s.pend := rfl
@[simp] theorem State.setA_cyc : (s.setA v).cyc = s.cyc := rfl
@[simp] theorem State.setA_mem : (s.setA v).mem = s.mem := rfl
@[simp] theorem State.setA_op : (s.setA v).op = s.op := rfl
@[simp] theorem State.setA_config : (s.setA v).config = s.config := rfl

end

section
variable (s : State) (v : Byte)

@[simp] theorem State.setX_a : (s.setX v).a = s.a := rfl
@[simp] theorem State.setX_x : (s.setX v).x = v := rfl
@[simp] theorem State.setX_y : (s.setX v).y = s.y := rfl
@[simp] theorem State.setX_sp : (s.setX v).sp = s.sp := rfl
@[simp] theorem State.setX_pc : (s.setX v).pc = s.pc := rfl
@[simp] theorem State.setX_flags : (s.setX v).flags = s.flags := rfl
@[simp] theorem State.setX_pend : (s.setX v).pend = s.pend := rfl
@[simp] theorem State.setX_cyc : (s.setX v).cyc = s.cyc := rfl
@[simp] theorem State.setX_mem : (s.setX v).mem = s.mem := rfl
@[simp] theorem State.setX_op : (s.setX v).op = s.op := rfl
@[simp] theorem State.setX_config : (s.setX v).config = s.config := rfl

end

section
variable (s : State) (v : Byte)

@[simp] theorem State.setY_a : (s.setY v).a = s.a := rfl
@[simp] theorem State.setY_x : (s.setY v).x = s.x := rfl
@[simp] theorem State.setY_y : (s.setY v).y = v := rfl
@[simp] theorem State.setY_sp : (s.setY v).sp = s.sp := rfl
@[simp] theorem State.setY_pc : (s.setY v).pc = s.pc := rfl
@[simp] theorem State.setY_flags : (s.setY v).flags = s.flags := rfl
@[simp] theorem State.setY_pend : (s.setY v).pend = s.pend := rfl
@[simp] theorem State.setY_cyc : (s.setY v).cyc = s.cyc := rfl
@[simp] theorem State.setY_mem : (s.setY v).mem = s.mem := rfl
@[simp] theorem State.setY_op : (s.setY v).op = s.op := rfl
@[simp] theorem State.setY_config : (s.setY v).config = s.config := rfl

end

section
variable (s : State) (v : Byte)

@[simp] theorem State.setSp_a : (s.setSp v).a = s.a := rfl
@[simp] theorem State.setSp_x : (s.setSp v).x = s.x := rfl
@[simp] theorem State.setSp_y : (s.setSp v).y = s.y := rfl
@[simp] theorem State.setSp_sp : (s.setSp v).sp = v := rfl
@[simp] theorem State.setSp_pc : (s.setSp v).pc = s.pc := rfl
@[simp] theorem State.setSp_flags : (s.setSp v).flags = s.flags := rfl
@[simp] theorem State.setSp_pend : (s.setSp v).pend = s.pend := rfl
@[simp] theorem State.setSp_cyc : (s.setSp v).cyc = s.cyc := rfl
@[simp] theorem State.setSp_mem : (s.setSp v).mem = s.mem := rfl
@[simp] theorem State.setSp_op : (s.setSp v).op = s.op := rfl
@[simp] theorem State.setSp_config : (s.setSp v).config = s.config := rfl

end

section
variable (s : State) (v : Addr)

@[simp] theorem State.setPc_a : (s.setPc v).a = s.a := rfl
@[simp] theorem State.setPc_x : (s.setPc v).x = s.x := rfl
@[simp] theorem State.setPc_y : (s.setPc v).y = s.y := rfl
@[simp] theorem State.setPc_sp : (s.setPc v).sp = s.sp := rfl
@[simp] theorem State.setPc_pc : (s.setPc v).pc = v := rfl
@[simp] theorem State.setPc_flags : (s.setPc v).flags = s.flags := rfl
@[simp] theorem State.setPc_pend : (s.setPc v).pend = s.pend := rfl
@[simp] theorem State.setPc_cyc : (s.setPc v).cyc = s.cyc := rfl
@[simp] theorem State.setPc_mem : (s.setPc v).mem = s.mem := rfl
@[simp] theorem State.setPc_op : (s.setPc v).op = s.op := rfl
@[simp] theorem State.setPc_config : (s.setPc v).config = s.config := rfl

end

section
variable (s : State) (f : Flags)

@[simp] theorem State.setFlags_a : (s.setFlags f).a = s.a := rfl
@[simp] theorem State.setFlags_x : (s.setFlags f).x = s.x := rfl
@[simp] theorem State.setFlags_y : (s.setFlags f).y = s.y := rfl
@[simp] theorem State.setFlags_sp : (s.setFlags f).sp = s.sp := rfl
@[simp] theorem State.setFlags_pc : (s.setFlags f).pc = s.pc := rfl
@[simp] theorem State.setFlags_flags : (s.setFlags f).flags = f := rfl
@[simp] theorem State.setFlags_pend : (s.setFlags f).pend = s.pend := rfl
@[simp] theorem State.setFlags_cyc : (s.setFlags f).cyc = s.cyc := rfl
@[simp] theorem State.setFlags_mem : (s.setFlags f).mem = s.mem := rfl
@[simp] theorem State.setFlags_op : (s.setFlags f).op = s.op := rfl
@[simp] theorem State.setFlags_config : (s.setFlags f).config = s.config := rfl

end

section
variable (s : State) (p : Option Bool)

@[simp] theorem State.setPend_a : (s.setPend p).a = s.a := rfl
@[simp] theorem State.setPend_x : (s.setPend p).x = s.x := rfl
@[simp] theorem State.setPend_y : (s.setPend p).y = s.y := rfl
@[simp] theorem State.setPend_sp : (s.setPend p).sp = s.sp := rfl
@[simp] theorem State.setPend_pc : (s.setPend p).pc = s.pc := rfl
@[simp] theorem State.setPend_flags : (s.setPend p).flags = s.flags := rfl
@[simp] theorem State.setPend_pend : (s.setPend p).pend = p := rfl
@[simp] theorem State.setPend_cyc : (s.setPend p).cyc = s.cyc := rfl
@[simp] theorem State.setPend_mem : (s.setPend p).mem = s.mem := rfl
@[simp] theorem State.setPend_op : (s.setPend p).op = s.op := rfl
@[simp] theorem State.setPend_config : (s.setPend p).config = s.config := rfl

end

section
variable (s : State) (k : Nat)

@[simp] theorem State.charge_a : (s.charge k).a = s.a := rfl
@[simp] theorem State.charge_x : (s.charge k).x = s.x := rfl
@[simp] theorem State.charge_y : (s.charge k).y = s.y := rfl
@[simp] theorem State.charge_sp : (s.charge k).sp = s.sp := rfl
@[simp] theorem State.charge_pc : (s.charge k).pc = s.pc := rfl
@[simp] theorem State.charge_flags : (s.charge k).flags = s.flags := rfl
@[simp] theorem State.charge_pend : (s.charge k).pend = s.pend := rfl
@[simp] theorem State.charge_cyc : (s.charge k).cyc = addCycles s.config.cycleWidth s.cyc k := rfl
@[simp] theorem State.charge_mem : (s.charge k).mem = s.mem := rfl
@[simp] theorem State.charge_op : (s.charge k).op = s.op := rfl
@[simp] theorem State.charge_config : (s.charge k).config = s.config := rfl

end

section
variable (s : State) (m : Memory)

@[simp] theorem State.setMem_a : (s.setMem m).a = s.a := rfl
@[simp] theorem State.setMem_x : (s.setMem m).x = s.x := rfl
@[simp] theorem State.setMem_y : (s.setMem m).y = s.y := rfl
@[simp] theorem State.setMem_sp : (s.setMem m).sp = s.sp := rfl
@[simp] theorem State.setMem_pc : (s.setMem m).pc = s.pc := rfl
@[simp] theorem State.setMem_flags : (s.setMem m).flags = s.flags := rfl
@[simp] theorem State.setMem_pend : (s.setMem m).pend = s.pend := rfl
@[simp] theorem State.setMem_cyc : (s.setMem m).cyc = s.cyc := rfl
@[simp] theorem State.setMem_mem : (s.setMem m).mem = m := rfl
@[simp] theorem State.setMem_op : (s.setMem m).op = s.op := rfl
@[simp] theorem State.setMem_config : (s.setMem m).config = s.config := rfl

end

section
variable (s : State) (op : Option Byte)

@[simp] theorem State.setOp_a : (s.setOp op).a = s.a := rfl
@[simp] theorem State.setOp_x : (s.setOp op).x = s.x := rfl
@[simp] theorem State.setOp_y : (s.setOp op).y = s.y := rfl
@[simp] theorem State.setOp_sp : (s.setOp op).sp = s.sp := rfl
@[simp] theorem State.setOp_pc : (s.setOp op).pc = s.pc := rfl
@[simp] theorem State.setOp_flags : (s.setOp op).flags = s.flags := rfl
@[simp] theorem State.setOp_pend : (s.setOp op).pend = s.pend := rfl
@[simp] theorem State.setOp_cyc : (s.setOp op).cyc = s.cyc := rfl
@[simp] theorem State.setOp_mem : (s.setOp op).mem = s.mem := rfl
@[simp] theorem State.setOp_op : (s.setOp op).op = op := rfl
@[simp] theorem State.setOp_config : (s.setOp op).config = s.config := rfl

@[simp] theorem State.setOp_setOp (op' : Option Byte) : (s.setOp op).setOp op' = s.setOp op' := rfl
@[simp] theorem State.setOp_op_self : s.setOp s.op = s := rfl

end

end Sys2Proof.Machine
end

