-- ==== Sys2Proof/Laws/Ops.lean ====
section
/-! SUPPORT. What the shared operations of Machine/Ops.lean do: one lemma for each thing later proofs
ask of them. -/

namespace Sys2Proof.Machine

variable (s : State)

/-! The cycle counter (R16). -/

@[simp] theorem addCycles_none (c k : Nat) : addCycles none c k = c + k := rfl

/-- Two charges are charged in either order. -/
theorem addCycles_comm (w : Option Nat) (c j k : Nat) :
    addCycles w (addCycles w c j) k = addCycles w (addCycles w c k) j := by
  cases w with
  | none => simp only [addCycles_none]; omega
  | some n => simp only [addCycles, Nat.mod_add_mod]; congr 1; omega

/-! Loads and stores (R35). -/

theorem State.load_eq (a : Addr) : s.load a = s.mem.read a.toNat := rfl

theorem State.store_eq (a : Addr) (v : Byte) :
    s.store a v = { s with mem := s.mem.write a.toNat v } := rfl

@[simp] theorem State.load_store_same (a : Addr) (v : Byte) : (s.store a v).load a = v := by
  simp [State.store, State.load]

theorem State.load_store_other {a b : Addr} (v : Byte) (h : b ≠ a) :
    (s.store a v).load b = s.load b := by
  have h' : b.toNat ≠ a.toNat := fun e => h (BitVec.eq_of_toNat_eq e)
  simp [State.store, State.load, Memory.read_write_other _ _ h']

theorem State.store_wf {a : Addr} {v : Byte} (h : Memory.wf s.mem = true) :
    Memory.wf (s.store a v).mem = true := Memory.wf_write v a.isLt h

/-! The stack (R157 to R159). -/

theorem State.push_eq (b : Byte) :
    s.push b = { s with mem := s.mem.write (256 + s.sp.toNat) b, sp := s.sp - 1#8 } := by
  simp [State.push]

theorem State.popped_eq : s.popped = { s with sp := s.sp + 1#8 } := rfl

theorem State.top_eq : s.top = s.mem.read (256 + (s.sp + 1#8).toNat) := by
  simp [State.top, State.load]

theorem State.push16_eq (w : Addr) :
    s.push16 w = { s with
      mem := (s.mem.write (256 + s.sp.toNat) (hi8 w)).write (256 + (s.sp - 1#8).toNat) (lo8 w)
      sp := s.sp - 1#8 - 1#8 } := by
  simp [State.push16, State.push_eq]

theorem State.popped16_eq : s.popped16 = { s with sp := s.sp + 1#8 + 1#8 } := rfl

theorem State.top16_eq :
    s.top16 = word16 (s.mem.read (256 + (s.sp + 1#8 + 1#8).toNat))
      (s.mem.read (256 + (s.sp + 1#8).toNat)) := by
  simp [State.top16, State.top_eq, State.popped_eq]

theorem State.push_wf {b : Byte} (h : Memory.wf s.mem = true) :
    Memory.wf (s.push b).mem = true := s.store_wf h

/-! The apply step (R71). -/

theorem applyPending_some {s : State} {b : Bool} (h : s.pend = some b) :
    applyPending s = { s with flags := { s.flags with i := b }, pend := none } := by
  simp [applyPending, h, State.setFlags, State.setPend]

theorem applyPending_none {s : State} (h : s.pend = none) : applyPending s = s := by
  simp [applyPending, h]

/-- The apply step writes the latch, which it clears, and nothing else but `I`. -/
theorem applyPending_cases :
    applyPending s = s ∧ s.pend = none ∨
      ∃ b, applyPending s = { s with flags := { s.flags with i := b }, pend := none } := by
  cases h : s.pend with
  | none => exact .inl ⟨applyPending_none h, rfl⟩
  | some b => exact .inr ⟨b, applyPending_some h⟩

@[simp] theorem applyPending_a : (applyPending s).a = s.a := by
  unfold applyPending; split <;> rfl
@[simp] theorem applyPending_x : (applyPending s).x = s.x := by
  unfold applyPending; split <;> rfl
@[simp] theorem applyPending_y : (applyPending s).y = s.y := by
  unfold applyPending; split <;> rfl
@[simp] theorem applyPending_sp : (applyPending s).sp = s.sp := by
  unfold applyPending; split <;> rfl
@[simp] theorem applyPending_pc : (applyPending s).pc = s.pc := by
  unfold applyPending; split <;> rfl
@[simp] theorem applyPending_cyc : (applyPending s).cyc = s.cyc := by
  unfold applyPending; split <;> rfl
@[simp] theorem applyPending_mem : (applyPending s).mem = s.mem := by
  unfold applyPending; split <;> rfl
@[simp] theorem applyPending_op : (applyPending s).op = s.op := by
  unfold applyPending; split <;> rfl
@[simp] theorem applyPending_config : (applyPending s).config = s.config := by
  unfold applyPending; split <;> rfl
@[simp] theorem applyPending_pend : (applyPending s).pend = none := by
  unfold applyPending; split
  · rfl
  · assumption

/-! The trap entry and return, and the epilogue. -/

/-- Everything the trap entry does (R183, R197). -/
theorem takeTrap_eq :
    takeTrap s = { s with
      mem := ((s.mem.write (256 + s.sp.toNat) (hi8 (s.pc + 2#16))).write
        (256 + (s.sp - 1#8).toNat) (lo8 (s.pc + 2#16))).write
        (256 + (s.sp - 1#8 - 1#8).toNat) (encodeStatus s.config.flagPos s.flags)
      sp := s.sp - 1#8 - 1#8 - 1#8
      flags := { s.flags with i := true }
      pc := trapAddr
      cyc := addCycles s.config.cycleWidth s.cyc 7 } := by
  simp [takeTrap, State.push16_eq, State.push_eq]

/-- Everything the return from the trap does (R184, R198). -/
theorem returnFromTrap_eq :
    returnFromTrap s = { s with
      sp := s.sp + 1#8 + 1#8 + 1#8
      flags := decodeStatus s.config.flagPos s.flags (s.mem.read (256 + (s.sp + 1#8).toNat))
      pc := word16 (s.mem.read (256 + (s.sp + 1#8 + 1#8 + 1#8).toNat))
        (s.mem.read (256 + (s.sp + 1#8 + 1#8).toNat))
      cyc := addCycles s.config.cycleWidth s.cyc 6 } := by
  simp [returnFromTrap, State.popped16_eq, State.popped_eq, State.top16_eq, State.top_eq,
    State.setFlags, State.setPc, State.charge]

/-! The row a transaction reads (R70 step 3, R89). -/

theorem State.row_of_some {s : State} {op : Byte} (h : s.op = some op) (mn : Mnemonic) (md : Mode) :
    s.row mn md = s.config.table.rowAt op := by
  simp [State.row, h]

theorem State.row_of_none {s : State} (h : s.op = none) (mn : Mnemonic) (md : Mode) :
    s.row mn md = s.config.table.rowOf mn md := by
  simp [State.row, h]

/-- The row depends on the byte in progress and the parameters only. -/
theorem State.row_congr {s t : State} (ho : t.op = s.op) (hc : t.config = s.config) (mn : Mnemonic)
    (md : Mode) : t.row mn md = s.row mn md := by
  simp [State.row, ho, hc]

theorem State.opByte_of_some {s : State} {op : Byte} (h : s.op = some op) (mn : Mnemonic) (md : Mode) :
    s.opByte mn md = op := by
  simp [State.opByte, h]

theorem State.opByte_of_none {s : State} (h : s.op = none) (i : Instr) :
    s.opByte i.mnem i.mode = s.config.table.opByte i := by
  simp [State.opByte, h, OpcodeTable.opByte]

/-- Everything the end of a table-dispatched opcode does (R89, R90). -/
theorem endTable_eq (mn : Mnemonic) (md : Mode) (crossed : Bool) :
    endTable mn md crossed s = { s with
      pc := s.pc + BitVec.ofNat 16 md.size
      cyc := addCycles s.config.cycleWidth s.cyc
        (rowCycles (s.row mn md) + (rowSensitive (s.row mn md) && crossed).toNat) } := rfl

/-- Everything the epilogue does (R89, R90). -/
theorem epilogue_eq (i : Instr) (crossed : Bool) :
    epilogue i crossed s = { s with
      pc := s.pc + BitVec.ofNat 16 i.size
      cyc := addCycles s.config.cycleWidth s.cyc
        (rowCycles (s.row i.mnem i.mode) + (rowSensitive (s.row i.mnem i.mode) && crossed).toNat) } := rfl

end Sys2Proof.Machine
end

