-- ==== Sys2Proof/Laws/Exec.lean ====
section
/-! SUPPORT. The meanings by mnemonic and operand: what `exec` answers for every instruction, and
`execPairing` for every pairing an opcode table can have besides, is one of four forms
(`pairingOutcome`), so that a proof about all of them goes by the 56 mnemonics; and what a completed
transaction is. -/

namespace Sys2Proof.Machine

/-- What the executor of a table-dispatched mnemonic leaves; nothing happens for the others. -/
def tableEffect (mn : Mnemonic) (o : Operand) (s : State) : State :=
  ((executorOf mn).bind fun e => e.run o s).getD s

/-- A branch whose condition is a function of the state: its new `pc` and what it costs. -/
def branchEffect (cond : Bool) (o : Operand) (s : State) : State :=
  match o with
  | .rel off =>
    let target := s.pc + 2#16 + sext16 off
    if cond then (s.charge (if hi8 target = hi8 s.pc then 3 else 4)).setPc target
    else (s.charge 2).setPc (s.pc + 2#16)
  | _ => s

/-- What each control-flow mnemonic does (R72); nothing for the others. -/
def controlEffect (mn : Mnemonic) (o : Operand) (s : State) : State :=
  match mn with
  | .bcc => branchEffect (!s.flags.c) o s
  | .bcs => branchEffect s.flags.c o s
  | .beq => branchEffect s.flags.z o s
  | .bne => branchEffect (!s.flags.z) o s
  | .bmi => branchEffect s.flags.n o s
  | .bpl => branchEffect (!s.flags.n) o s
  | .bvc => branchEffect (!s.flags.v) o s
  | .bvs => branchEffect s.flags.v o s
  | .jmp => match o with
    | .target a => (s.setPc a).charge 3
    | _ => s
  | .jsr => match o with
    | .target a => ((s.push16 (s.pc + 2#16)).setPc a).charge 6
    | _ => s
  | .rts => (s.popped16.setPc (s.top16 + 1#16)).charge 6
  | .brk => takeTrap s
  | .rti => returnFromTrap s
  | _ => s

/-- What a transaction on a mnemonic and an operand answers, by the class of the opcode (R70 steps 2 and 3,
R56, R180). -/
def pairingOutcome (mn : Mnemonic) (o : Operand) (s : State) : Result :=
  match mn.cls o.mode with
  | .tbl => .next (endTable mn o.mode (operandCrossed o s) (tableEffect mn o s))
  | .opt =>
    if s.config.indexIncdec then
      .next (endTable mn o.mode (operandCrossed o s) (tableEffect mn o s))
    else .fault (.unknownOpcode (s.opByte mn o.mode))
  | .cf => .next (controlEffect mn o s)
  | .fault => .fault (.unsupportedAddressingMode (s.opByte mn o.mode))

/-- What `exec` answers. -/
theorem exec_eq (i : Instr) (s : State) : exec i s = pairingOutcome i.mnem i.operand s := by
  cases i <;> first | rfl | exact (apply_ite Host.Outcome.next _ _ _).symm

/-- What `execPairing` answers for a pairing that exists. -/
theorem execPairing_eq {mn : Mnemonic} {md : Mode} (hc : mn.cls md = .tbl ∨ mn.cls md = .opt)
    (ht : mn.takes md = true) (b c : Byte) (s : State) :
    execPairing mn (Operand.assemble mn md b c) s =
      pairingOutcome mn (Operand.assemble mn md b c) s := by
  have key : mn.cls md = .tbl ∨ mn.cls md = .opt → mn.takes md = true →
      ∃ t, ((executorOf mn).bind fun e => e.run (Operand.assemble mn md b c) s) = some t := by
    cases mn <;> (cases md <;> first
      | exact fun _ _ => ⟨_, rfl⟩
      | (intro _ h; cases h; done)
      | (rintro (h | h) <;> cases h))
  obtain ⟨t, h⟩ := key hc ht
  simp only [execPairing, pairingOutcome, tableEffect, h, Operand.mode_assemble, Option.getD_some]
  obtain e | e := hc <;> rw [e] <;> cases s.config.indexIncdec <;> rfl

/-- A next state of a transaction is one of two: the executor's and the end of a table-dispatched opcode,
or a control transfer. -/
theorem pairingOutcome_next {mn : Mnemonic} {o : Operand} {s t : State}
    (h : pairingOutcome mn o s = .next t) :
    (t = endTable mn o.mode (operandCrossed o s) (tableEffect mn o s) ∧
      (mn.cls o.mode = .tbl ∨ mn.cls o.mode = .opt ∧ s.config.indexIncdec = true)) ∨
    (t = controlEffect mn o s ∧ mn.cls o.mode = .cf) := by
  unfold pairingOutcome at h
  split at h
  · next hc => exact .inl ⟨(Host.Outcome.next.inj h).symm, .inl hc⟩
  · next hc =>
    split at h
    · next hg => exact .inl ⟨(Host.Outcome.next.inj h).symm, .inr ⟨hc, hg⟩⟩
    · cases h
  · next hc => exact .inr ⟨(Host.Outcome.next.inj h).symm, hc⟩
  · cases h

/-- A next state of `exec` is one of two: the table's executor and epilogue, or a control transfer. -/
theorem exec_next {i : Instr} {s t : State} (h : exec i s = .next t) :
    (t = epilogue i (operandCrossed i.operand s) (tableEffect i.mnem i.operand s) ∧
      (i.cls = .tbl ∨ i.cls = .opt ∧ s.config.indexIncdec = true)) ∨
    (t = controlEffect i.mnem i.operand s ∧ i.cls = .cf) :=
  pairingOutcome_next (exec_eq i s ▸ h)

/-- The class goes by the mnemonic, but for JMP indirect (R53, R72). -/
theorem cls_cf_iff (mn : Mnemonic) (md : Mode) :
    mn.cls md = .cf ↔ mn ∈ [.bcc, .bcs, .beq, .bne, .bmi, .bpl, .bvc, .bvs, .jmp, .jsr, .rts,
      .brk, .rti] ∧ ¬ (mn = .jmp ∧ md = .ind) := by
  cases mn <;> simp [Mnemonic.cls]

/-- A control-flow mnemonic and its operand: none, a branch offset or a target (R72). -/
theorem cf_operand {mn : Mnemonic} {md : Mode} (hc : mn.cls md = .cf) (ht : mn.takes md = true)
    (b c : Byte) :
    mn ∈ [.rts, .brk, .rti] ∧ Operand.assemble mn md b c = .imp ∨
    mn ∈ [.bcc, .bcs, .beq, .bne, .bmi, .bpl, .bvc, .bvs] ∧ Operand.assemble mn md b c = .rel b ∨
    mn ∈ [.jmp, .jsr] ∧ Operand.assemble mn md b c = .target (word16 b c) := by
  cases mn <;> simp [Mnemonic.cls, Mnemonic.takes] at hc ht <;>
    (try obtain rfl | rfl := ht) <;> simp_all [Operand.assemble]

/-! Transactions. -/

/-- Only an executor of the table is paired with a mode that R53 does not list. -/
theorem cls_of_unlisted {mn : Mnemonic} {md : Mode} {b c : Byte} (ht : mn.takes md = true)
    (h : Instr.ofShape mn (Operand.assemble mn md b c) = none) :
    mn.cls md = .tbl ∨ mn.cls md = .opt := by
  revert ht h
  cases mn <;> first
    | exact fun _ _ => .inl rfl
    | exact fun _ _ => .inr rfl
    | (cases md <;> intro ht h <;> first | (cases ht; done) | cases h)

section
variable {ins : Record} {s t : State} {row : TableRow}

/-- The state a transaction's meaning starts from: the apply step has run, and the opcode byte is in
progress (R70, R71). -/
def entered (op : Byte) (s : State) : State := (applyPending s).setOp (some op)

section
variable (op : Byte) (s : State)

@[simp] theorem entered_a : (entered op s).a = s.a := applyPending_a s
@[simp] theorem entered_x : (entered op s).x = s.x := applyPending_x s
@[simp] theorem entered_y : (entered op s).y = s.y := applyPending_y s
@[simp] theorem entered_sp : (entered op s).sp = s.sp := applyPending_sp s
@[simp] theorem entered_pc : (entered op s).pc = s.pc := applyPending_pc s
@[simp] theorem entered_cyc : (entered op s).cyc = s.cyc := applyPending_cyc s
@[simp] theorem entered_mem : (entered op s).mem = s.mem := applyPending_mem s
@[simp] theorem entered_config : (entered op s).config = s.config := applyPending_config s
@[simp] theorem entered_pend : (entered op s).pend = none := applyPending_pend s
@[simp] theorem entered_op : (entered op s).op = some op := rfl

/-- The row of a transaction in progress is that of its opcode byte (R89). -/
@[simp] theorem entered_row (mn : Mnemonic) (md : Mode) :
    (entered op s).row mn md = s.config.table.rowAt op := by
  rw [State.row_of_some (entered_op op s), entered_config]

end

/-- The operand of a record under a row (R52). -/
def rowOperand (row : TableRow) (ins : Record) : Operand :=
  Operand.assemble row.mnem row.mode ins.ob0 ins.ob1

@[simp] theorem rowOperand_mode : (rowOperand row ins).mode = row.mode := Operand.mode_assemble ..

/-- What a transaction on a well-formed record of a byte the table has is (R70). -/
theorem execute_of_rowAt (hr : s.config.table.rowAt ins.opCode = some row)
    (hw : ins.wf s.config.table = true) :
    execute ins s =
      endTransaction (pairingOutcome row.mnem (rowOperand row ins) (entered ins.opCode s)) := by
  have hd := decodeRecord_of_rowAt hw hr
  have ht := (OpcodeTable.rowAt_some hr).2.2
  unfold execute
  dsimp only
  rw [State.setOp_config, applyPending_config, hd]
  cases hj : Instr.ofShape row.mnem (Operand.assemble row.mnem row.mode ins.ob0 ins.ob1) with
  | some i =>
    obtain ⟨hn, ho⟩ := Instr.of_ofShape hj
    simp only [exec_eq, hn, ho]
    rfl
  | none =>
    dsimp only
    rw [execPairing_eq (cls_of_unlisted ht hj) ht]
    rfl

/-- A byte the table lacks is the fault `UnknownOpcode` (R74). -/
theorem execute_of_rowAt_none (hr : s.config.table.rowAt ins.opCode = none) :
    execute ins s = .fault (.unknownOpcode ins.opCode) := by
  simp [execute, decodeRecord, opcodeFault, hr]

/-- A completed transaction ran its row's meaning, and leaves no byte in progress. -/
theorem execute_next (h : execute ins s = .next t) :
    ∃ row u, s.config.table.rowAt ins.opCode = some row ∧ ins.wf s.config.table = true ∧
      pairingOutcome row.mnem (rowOperand row ins) (entered ins.opCode s) = .next u ∧
      t = u.setOp none := by
  have fin : ∀ r : Result, endTransaction r = .next t → ∃ u, r = .next u ∧ t = u.setOp none := by
    intro r hr
    cases r with
    | next u => exact ⟨u, rfl, (Host.Outcome.next.inj hr).symm⟩
    | fault f => cases hr
    | refused f => cases hr
  cases hr : s.config.table.rowAt ins.opCode with
  | none => rw [execute_of_rowAt_none hr] at h; cases h
  | some row =>
    cases hw : ins.wf s.config.table with
    | true =>
      rw [execute_of_rowAt hr hw] at h
      obtain ⟨u, hu, ht⟩ := fin _ h
      exact ⟨row, u, rfl, rfl, hu, ht⟩
    | false =>
      unfold execute at h
      simp only [decodeRecord, State.setOp_config, applyPending_config, hr, hw] at h
      revert h
      cases opcodeFault s.config ins.opCode <;> simp

/-- What a step is, from the row of the byte at `pc` (R60, R70). -/
theorem step_of_rowAt (hr : s.config.table.rowAt (s.load s.pc) = some row) :
    step s = endTransaction
      (pairingOutcome row.mnem (rowOperand row (fetch s)) (entered (s.load s.pc) s)) := by
  have h : (fetch s).opCode = s.load s.pc := assemble_opCode _ _
  have hw : (fetch s).wf s.config.table = true := assemble_wf hr
  unfold step
  rw [execute_of_rowAt (row := row) (by rw [h]; exact hr) hw, h]

theorem step_of_rowAt_none (hr : s.config.table.rowAt (s.load s.pc) = none) :
    step s = .fault (.unknownOpcode (s.load s.pc)) := by
  have h : (fetch s).opCode = s.load s.pc := assemble_opCode _ _
  unfold step
  rw [execute_of_rowAt_none (by rw [h]; exact hr), h]

/-- A completed step ran the meaning of the row of the byte at `pc`, and leaves no byte in progress. -/
theorem step_next (h : step s = .next t) :
    ∃ row u, s.config.table.rowAt (s.load s.pc) = some row ∧
      pairingOutcome row.mnem (rowOperand row (fetch s)) (entered (s.load s.pc) s) = .next u ∧
      t = u.setOp none := by
  have e : (fetch s).opCode = s.load s.pc := assemble_opCode _ _
  obtain ⟨row, u, hr, -, hu, ht⟩ := execute_next h
  exact ⟨row, u, by rw [← e]; exact hr, by rw [← e]; exact hu, ht⟩

/-- A transaction on a record that decodes runs `exec` with the record's opcode byte in progress. -/
theorem execute_of_decode {i : Instr} (h : decodeRecord s.config.table ins = .ok i) :
    execute ins s = endTransaction (exec i (entered ins.opCode s)) := by
  simp [execute, entered, h]

end

/-! Neither an executor nor a control transfer reads the byte in progress. -/

section
variable (mn : Mnemonic) (o : Operand) (s : State) (op : Option Byte)

theorem tableEffect_setOp : tableEffect mn o (s.setOp op) = (tableEffect mn o s).setOp op := by
  cases o <;> cases mn <;> rfl

theorem branchEffect_setOp (cond : Bool) :
    branchEffect cond o (s.setOp op) = (branchEffect cond o s).setOp op := by
  cases o <;> cases cond <;> rfl

theorem controlEffect_setOp : controlEffect mn o (s.setOp op) = (controlEffect mn o s).setOp op := by
  cases mn <;> first | exact branchEffect_setOp .. | (cases o <;> rfl)

@[simp] theorem operandCrossed_setOp : operandCrossed o (s.setOp op) = operandCrossed o s := by
  cases o <;> rfl

end

/-- Where the byte in progress is the first of its pairing, the transaction is the one with none in
progress. -/
theorem endTransaction_pairingOutcome {mn : Mnemonic} {o : Operand} {s : State} {op : Byte}
    {row : TableRow} (ha : s.config.table.rowAt op = some row)
    (hf : s.config.table.rowOf mn o.mode = some row) :
    endTransaction (pairingOutcome mn o (s.setOp (some op))) = pairingOutcome mn o (s.setOp none) := by
  have hop := (OpcodeTable.rowAt_some ha).2.1
  have hr : ∀ (crossed : Bool) (t : State), t.config = s.config →
      (endTable mn o.mode crossed (t.setOp (some op))).setOp none =
        endTable mn o.mode crossed (t.setOp none) := by
    intro crossed t hc
    simp only [endTable_eq, State.row, State.setOp, hc, ha, hf]
  have hcfg : (tableEffect mn o s).config = s.config := by cases o <;> cases mn <;> rfl
  have hb : (s.setOp (some op)).opByte mn o.mode = (s.setOp none).opByte mn o.mode := by
    simp [State.opByte, hf, rowByte, hop]
  unfold pairingOutcome
  simp only [tableEffect_setOp, controlEffect_setOp, operandCrossed_setOp, State.setOp_config, hb]
  split
  · simp only [endTransaction, hr _ _ hcfg]
  · split
    · simp only [endTransaction, hr _ _ hcfg]
    · rfl
  · rfl
  · rfl

/-! What the executors leave alone. -/

section
variable (mn : Mnemonic) (o : Operand) (s : State)

@[simp] theorem tableEffect_pc : (tableEffect mn o s).pc = s.pc := by cases o <;> cases mn <;> rfl
@[simp] theorem tableEffect_cyc : (tableEffect mn o s).cyc = s.cyc := by cases o <;> cases mn <;> rfl
@[simp] theorem tableEffect_op : (tableEffect mn o s).op = s.op := by cases o <;> cases mn <;> rfl
@[simp] theorem tableEffect_config : (tableEffect mn o s).config = s.config := by
  cases o <;> cases mn <;> rfl

/-- The row stands as it did before the executor. -/
@[simp] theorem tableEffect_row (mn' : Mnemonic) (md : Mode) :
    (tableEffect mn o s).row mn' md = s.row mn' md := State.row_congr (by simp) (by simp) _ _

end

/-- A branch changes `pc`, and `CYC` by 2 to 4 (R170). -/
theorem branchEffect_eq (cond : Bool) (o : Operand) (s : State) :
    branchEffect cond o s = s ∨
      ∃ p k, 2 ≤ k ∧ k ≤ 4 ∧
        branchEffect cond o s = { s with pc := p, cyc := addCycles s.config.cycleWidth s.cyc k } := by
  cases o <;> first | exact .inl rfl | skip
  next off =>
    right
    cases cond
    · exact ⟨_, 2, by omega, by omega, rfl⟩
    · refine ⟨_, if hi8 (s.pc + 2#16 + sext16 off) = hi8 s.pc then 3 else 4, ?_, ?_, rfl⟩ <;>
        split <;> omega

section
variable (cond : Bool) (o : Operand) (s : State)

@[simp] theorem branchEffect_a : (branchEffect cond o s).a = s.a := by
  obtain h | ⟨p, k, -, -, h⟩ := branchEffect_eq cond o s <;> rw [h]
@[simp] theorem branchEffect_x : (branchEffect cond o s).x = s.x := by
  obtain h | ⟨p, k, -, -, h⟩ := branchEffect_eq cond o s <;> rw [h]
@[simp] theorem branchEffect_y : (branchEffect cond o s).y = s.y := by
  obtain h | ⟨p, k, -, -, h⟩ := branchEffect_eq cond o s <;> rw [h]
@[simp] theorem branchEffect_sp : (branchEffect cond o s).sp = s.sp := by
  obtain h | ⟨p, k, -, -, h⟩ := branchEffect_eq cond o s <;> rw [h]
@[simp] theorem branchEffect_flags : (branchEffect cond o s).flags = s.flags := by
  obtain h | ⟨p, k, -, -, h⟩ := branchEffect_eq cond o s <;> rw [h]
@[simp] theorem branchEffect_pend : (branchEffect cond o s).pend = s.pend := by
  obtain h | ⟨p, k, -, -, h⟩ := branchEffect_eq cond o s <;> rw [h]
@[simp] theorem branchEffect_mem : (branchEffect cond o s).mem = s.mem := by
  obtain h | ⟨p, k, -, -, h⟩ := branchEffect_eq cond o s <;> rw [h]
@[simp] theorem branchEffect_op : (branchEffect cond o s).op = s.op := by
  obtain h | ⟨p, k, -, -, h⟩ := branchEffect_eq cond o s <;> rw [h]
@[simp] theorem branchEffect_config : (branchEffect cond o s).config = s.config := by
  obtain h | ⟨p, k, -, -, h⟩ := branchEffect_eq cond o s <;> rw [h]

end

@[simp] theorem controlEffect_config (mn : Mnemonic) (o : Operand) (s : State) :
    (controlEffect mn o s).config = s.config := by
  cases mn <;> simp only [controlEffect, branchEffect_config, takeTrap_eq, returnFromTrap_eq, State.popped16_eq,
    State.push16_eq, State.setPc_config, State.charge_config] <;> cases o <;> rfl

@[simp] theorem controlEffect_op (mn : Mnemonic) (o : Operand) (s : State) :
    (controlEffect mn o s).op = s.op := by
  cases mn <;> simp only [controlEffect, branchEffect_op, takeTrap_eq, returnFromTrap_eq, State.popped16_eq,
    State.push16_eq, State.setPc_op, State.charge_op] <;> cases o <;> rfl

/-- A store or read-modify-write executor changes no byte but the one at its effective address. -/
theorem tableEffect_load_other {mn : Mnemonic} {o : Operand} {s : State} {b : Addr}
    (hm : mn ∈ [.sta, .stx, .sty, .asl, .lsr, .rol, .ror, .inc, .dec]) (h : b ∉ operandAddr o s) :
    (tableEffect mn o s).load b = s.load b := by
  have ne : ∀ a, operandAddr o s = some a → b ≠ a := fun a e hb => h (by rw [e, hb]; rfl)
  simp only [List.mem_cons, List.not_mem_nil, or_false] at hm
  cases o <;> obtain rfl | rfl | rfl | rfl | rfl | rfl | rfl | rfl | rfl := hm <;>
    first | rfl | exact State.load_store_other _ _ (ne _ rfl)

/-- A push changes no byte but the one at the stack pointer. -/
theorem push_load_other {s : State} {v : Byte} {b : Addr} (h : b ≠ stackAddr s.sp) :
    (s.push v).load b = s.load b := State.load_store_other _ _ h

/-! The executors keep the canonical form of memory. -/

theorem tableEffect_wf {mn : Mnemonic} {o : Operand} {s : State} (h : Memory.wf s.mem = true) :
    Memory.wf (tableEffect mn o s).mem = true := by
  cases mn <;> first
    | exact h
    | exact State.push_wf _ h
    | (cases o <;> first | exact h | exact s.store_wf h)

theorem push16_wf {w : Addr} {s : State} (h : Memory.wf s.mem = true) :
    Memory.wf (s.push16 w).mem = true := State.push_wf _ (State.push_wf _ h)

theorem takeTrap_wf {s : State} (h : Memory.wf s.mem = true) :
    Memory.wf (takeTrap s).mem = true := State.push_wf _ (push16_wf h)

end Sys2Proof.Machine
end

