-- ==== Sys2Proof/Laws/PerInstr.lean ====
section
/-! SUPPORT. A law of each instruction as syntax. -/

namespace Sys2Proof.Laws.EncodedLength

/-- With every table in which no byte stands twice and which has the instruction, the byte stream the
instruction is written as has the length the table gives its opcode byte, and it is the instruction's own
(R51, R57). -/
def Statement (i : Instr) : Prop :=
  ∀ t : OpcodeTable, t.ok = true → t.has i = true →
    (encode t i).length = t.lengthOf (t.opByte i) ∧ t.lengthOf (t.opByte i) = i.size

/-- The statement from the length of the instruction's byte stream. -/
theorem of_length {i : Instr} (h : ∀ t, (encode t i).length = i.size) : Statement i := fun t ho hi => by
  rw [OpcodeTable.lengthOf_opByte ho hi]
  exact ⟨h t, rfl⟩

theorem brk : Statement .brk := of_length fun _ => rfl
theorem oraIzx (d : Byte) : Statement (.oraIzx d) := of_length fun _ => rfl
theorem oraZp (d : Byte) : Statement (.oraZp d) := of_length fun _ => rfl
theorem aslZp (d : Byte) : Statement (.aslZp d) := of_length fun _ => rfl
theorem php : Statement .php := of_length fun _ => rfl
theorem oraImm (v : Byte) : Statement (.oraImm v) := of_length fun _ => rfl
theorem aslAcc : Statement .aslAcc := of_length fun _ => rfl
theorem oraAbs (a : Addr) : Statement (.oraAbs a) := of_length fun _ => rfl
theorem aslAbs (a : Addr) : Statement (.aslAbs a) := of_length fun _ => rfl
theorem bpl (off : Byte) : Statement (.bpl off) := of_length fun _ => rfl
theorem oraIzy (d : Byte) : Statement (.oraIzy d) := of_length fun _ => rfl
theorem oraZpx (d : Byte) : Statement (.oraZpx d) := of_length fun _ => rfl
theorem aslZpx (d : Byte) : Statement (.aslZpx d) := of_length fun _ => rfl
theorem clc : Statement .clc := of_length fun _ => rfl
theorem oraAby (a : Addr) : Statement (.oraAby a) := of_length fun _ => rfl
theorem oraAbx (a : Addr) : Statement (.oraAbx a) := of_length fun _ => rfl
theorem aslAbx (a : Addr) : Statement (.aslAbx a) := of_length fun _ => rfl
theorem jsrAbs (a : Addr) : Statement (.jsrAbs a) := of_length fun _ => rfl
theorem andIzx (d : Byte) : Statement (.andIzx d) := of_length fun _ => rfl
theorem bitZp (d : Byte) : Statement (.bitZp d) := of_length fun _ => rfl
theorem andZp (d : Byte) : Statement (.andZp d) := of_length fun _ => rfl
theorem rolZp (d : Byte) : Statement (.rolZp d) := of_length fun _ => rfl
theorem plp : Statement .plp := of_length fun _ => rfl
theorem andImm (v : Byte) : Statement (.andImm v) := of_length fun _ => rfl
theorem rolAcc : Statement .rolAcc := of_length fun _ => rfl
theorem bitAbs (a : Addr) : Statement (.bitAbs a) := of_length fun _ => rfl
theorem andAbs (a : Addr) : Statement (.andAbs a) := of_length fun _ => rfl
theorem rolAbs (a : Addr) : Statement (.rolAbs a) := of_length fun _ => rfl
theorem bmi (off : Byte) : Statement (.bmi off) := of_length fun _ => rfl
theorem andIzy (d : Byte) : Statement (.andIzy d) := of_length fun _ => rfl
theorem andZpx (d : Byte) : Statement (.andZpx d) := of_length fun _ => rfl
theorem rolZpx (d : Byte) : Statement (.rolZpx d) := of_length fun _ => rfl
theorem sec : Statement .sec := of_length fun _ => rfl
theorem andAby (a : Addr) : Statement (.andAby a) := of_length fun _ => rfl
theorem andAbx (a : Addr) : Statement (.andAbx a) := of_length fun _ => rfl
theorem rolAbx (a : Addr) : Statement (.rolAbx a) := of_length fun _ => rfl
theorem rti : Statement .rti := of_length fun _ => rfl
theorem eorIzx (d : Byte) : Statement (.eorIzx d) := of_length fun _ => rfl
theorem eorZp (d : Byte) : Statement (.eorZp d) := of_length fun _ => rfl
theorem lsrZp (d : Byte) : Statement (.lsrZp d) := of_length fun _ => rfl
theorem pha : Statement .pha := of_length fun _ => rfl
theorem eorImm (v : Byte) : Statement (.eorImm v) := of_length fun _ => rfl
theorem lsrAcc : Statement .lsrAcc := of_length fun _ => rfl
theorem jmpAbs (a : Addr) : Statement (.jmpAbs a) := of_length fun _ => rfl
theorem eorAbs (a : Addr) : Statement (.eorAbs a) := of_length fun _ => rfl
theorem lsrAbs (a : Addr) : Statement (.lsrAbs a) := of_length fun _ => rfl
theorem bvc (off : Byte) : Statement (.bvc off) := of_length fun _ => rfl
theorem eorIzy (d : Byte) : Statement (.eorIzy d) := of_length fun _ => rfl
theorem eorZpx (d : Byte) : Statement (.eorZpx d) := of_length fun _ => rfl
theorem lsrZpx (d : Byte) : Statement (.lsrZpx d) := of_length fun _ => rfl
theorem cli : Statement .cli := of_length fun _ => rfl
theorem eorAby (a : Addr) : Statement (.eorAby a) := of_length fun _ => rfl
theorem eorAbx (a : Addr) : Statement (.eorAbx a) := of_length fun _ => rfl
theorem lsrAbx (a : Addr) : Statement (.lsrAbx a) := of_length fun _ => rfl
theorem rts : Statement .rts := of_length fun _ => rfl
theorem adcIzx (d : Byte) : Statement (.adcIzx d) := of_length fun _ => rfl
theorem adcZp (d : Byte) : Statement (.adcZp d) := of_length fun _ => rfl
theorem rorZp (d : Byte) : Statement (.rorZp d) := of_length fun _ => rfl
theorem pla : Statement .pla := of_length fun _ => rfl
theorem adcImm (v : Byte) : Statement (.adcImm v) := of_length fun _ => rfl
theorem rorAcc : Statement .rorAcc := of_length fun _ => rfl
theorem jmpInd (a : Addr) : Statement (.jmpInd a) := of_length fun _ => rfl
theorem adcAbs (a : Addr) : Statement (.adcAbs a) := of_length fun _ => rfl
theorem rorAbs (a : Addr) : Statement (.rorAbs a) := of_length fun _ => rfl
theorem bvs (off : Byte) : Statement (.bvs off) := of_length fun _ => rfl
theorem adcIzy (d : Byte) : Statement (.adcIzy d) := of_length fun _ => rfl
theorem adcZpx (d : Byte) : Statement (.adcZpx d) := of_length fun _ => rfl
theorem rorZpx (d : Byte) : Statement (.rorZpx d) := of_length fun _ => rfl
theorem sei : Statement .sei := of_length fun _ => rfl
theorem adcAby (a : Addr) : Statement (.adcAby a) := of_length fun _ => rfl
theorem adcAbx (a : Addr) : Statement (.adcAbx a) := of_length fun _ => rfl
theorem rorAbx (a : Addr) : Statement (.rorAbx a) := of_length fun _ => rfl
theorem staIzx (d : Byte) : Statement (.staIzx d) := of_length fun _ => rfl
theorem styZp (d : Byte) : Statement (.styZp d) := of_length fun _ => rfl
theorem staZp (d : Byte) : Statement (.staZp d) := of_length fun _ => rfl
theorem stxZp (d : Byte) : Statement (.stxZp d) := of_length fun _ => rfl
theorem dey : Statement .dey := of_length fun _ => rfl
theorem txa : Statement .txa := of_length fun _ => rfl
theorem styAbs (a : Addr) : Statement (.styAbs a) := of_length fun _ => rfl
theorem staAbs (a : Addr) : Statement (.staAbs a) := of_length fun _ => rfl
theorem stxAbs (a : Addr) : Statement (.stxAbs a) := of_length fun _ => rfl
theorem bcc (off : Byte) : Statement (.bcc off) := of_length fun _ => rfl
theorem staIzy (d : Byte) : Statement (.staIzy d) := of_length fun _ => rfl
theorem styZpx (d : Byte) : Statement (.styZpx d) := of_length fun _ => rfl
theorem staZpx (d : Byte) : Statement (.staZpx d) := of_length fun _ => rfl
theorem stxZpy (d : Byte) : Statement (.stxZpy d) := of_length fun _ => rfl
theorem tya : Statement .tya := of_length fun _ => rfl
theorem staAby (a : Addr) : Statement (.staAby a) := of_length fun _ => rfl
theorem txs : Statement .txs := of_length fun _ => rfl
theorem staAbx (a : Addr) : Statement (.staAbx a) := of_length fun _ => rfl
theorem ldyImm (v : Byte) : Statement (.ldyImm v) := of_length fun _ => rfl
theorem ldaIzx (d : Byte) : Statement (.ldaIzx d) := of_length fun _ => rfl
theorem ldxImm (v : Byte) : Statement (.ldxImm v) := of_length fun _ => rfl
theorem ldyZp (d : Byte) : Statement (.ldyZp d) := of_length fun _ => rfl
theorem ldaZp (d : Byte) : Statement (.ldaZp d) := of_length fun _ => rfl
theorem ldxZp (d : Byte) : Statement (.ldxZp d) := of_length fun _ => rfl
theorem tay : Statement .tay := of_length fun _ => rfl
theorem ldaImm (v : Byte) : Statement (.ldaImm v) := of_length fun _ => rfl
theorem tax : Statement .tax := of_length fun _ => rfl
theorem ldyAbs (a : Addr) : Statement (.ldyAbs a) := of_length fun _ => rfl
theorem ldaAbs (a : Addr) : Statement (.ldaAbs a) := of_length fun _ => rfl
theorem ldxAbs (a : Addr) : Statement (.ldxAbs a) := of_length fun _ => rfl
theorem bcs (off : Byte) : Statement (.bcs off) := of_length fun _ => rfl
theorem ldaIzy (d : Byte) : Statement (.ldaIzy d) := of_length fun _ => rfl
theorem ldyZpx (d : Byte) : Statement (.ldyZpx d) := of_length fun _ => rfl
theorem ldaZpx (d : Byte) : Statement (.ldaZpx d) := of_length fun _ => rfl
theorem ldxZpy (d : Byte) : Statement (.ldxZpy d) := of_length fun _ => rfl
theorem clv : Statement .clv := of_length fun _ => rfl
theorem ldaAby (a : Addr) : Statement (.ldaAby a) := of_length fun _ => rfl
theorem tsx : Statement .tsx := of_length fun _ => rfl
theorem ldyAbx (a : Addr) : Statement (.ldyAbx a) := of_length fun _ => rfl
theorem ldaAbx (a : Addr) : Statement (.ldaAbx a) := of_length fun _ => rfl
theorem ldxAby (a : Addr) : Statement (.ldxAby a) := of_length fun _ => rfl
theorem cpyImm (v : Byte) : Statement (.cpyImm v) := of_length fun _ => rfl
theorem cmpIzx (d : Byte) : Statement (.cmpIzx d) := of_length fun _ => rfl
theorem cpyZp (d : Byte) : Statement (.cpyZp d) := of_length fun _ => rfl
theorem cmpZp (d : Byte) : Statement (.cmpZp d) := of_length fun _ => rfl
theorem decZp (d : Byte) : Statement (.decZp d) := of_length fun _ => rfl
theorem iny : Statement .iny := of_length fun _ => rfl
theorem cmpImm (v : Byte) : Statement (.cmpImm v) := of_length fun _ => rfl
theorem dex : Statement .dex := of_length fun _ => rfl
theorem cpyAbs (a : Addr) : Statement (.cpyAbs a) := of_length fun _ => rfl
theorem cmpAbs (a : Addr) : Statement (.cmpAbs a) := of_length fun _ => rfl
theorem decAbs (a : Addr) : Statement (.decAbs a) := of_length fun _ => rfl
theorem bne (off : Byte) : Statement (.bne off) := of_length fun _ => rfl
theorem cmpIzy (d : Byte) : Statement (.cmpIzy d) := of_length fun _ => rfl
theorem cmpZpx (d : Byte) : Statement (.cmpZpx d) := of_length fun _ => rfl
theorem decZpx (d : Byte) : Statement (.decZpx d) := of_length fun _ => rfl
theorem cld : Statement .cld := of_length fun _ => rfl
theorem cmpAby (a : Addr) : Statement (.cmpAby a) := of_length fun _ => rfl
theorem cmpAbx (a : Addr) : Statement (.cmpAbx a) := of_length fun _ => rfl
theorem decAbx (a : Addr) : Statement (.decAbx a) := of_length fun _ => rfl
theorem cpxImm (v : Byte) : Statement (.cpxImm v) := of_length fun _ => rfl
theorem sbcIzx (d : Byte) : Statement (.sbcIzx d) := of_length fun _ => rfl
theorem cpxZp (d : Byte) : Statement (.cpxZp d) := of_length fun _ => rfl
theorem sbcZp (d : Byte) : Statement (.sbcZp d) := of_length fun _ => rfl
theorem incZp (d : Byte) : Statement (.incZp d) := of_length fun _ => rfl
theorem inx : Statement .inx := of_length fun _ => rfl
theorem sbcImm (v : Byte) : Statement (.sbcImm v) := of_length fun _ => rfl
theorem nop : Statement .nop := of_length fun _ => rfl
theorem cpxAbs (a : Addr) : Statement (.cpxAbs a) := of_length fun _ => rfl
theorem sbcAbs (a : Addr) : Statement (.sbcAbs a) := of_length fun _ => rfl
theorem incAbs (a : Addr) : Statement (.incAbs a) := of_length fun _ => rfl
theorem beq (off : Byte) : Statement (.beq off) := of_length fun _ => rfl
theorem sbcIzy (d : Byte) : Statement (.sbcIzy d) := of_length fun _ => rfl
theorem sbcZpx (d : Byte) : Statement (.sbcZpx d) := of_length fun _ => rfl
theorem incZpx (d : Byte) : Statement (.incZpx d) := of_length fun _ => rfl
theorem sed : Statement .sed := of_length fun _ => rfl
theorem sbcAby (a : Addr) : Statement (.sbcAby a) := of_length fun _ => rfl
theorem sbcAbx (a : Addr) : Statement (.sbcAbx a) := of_length fun _ => rfl
theorem incAbx (a : Addr) : Statement (.incAbx a) := of_length fun _ => rfl

end Sys2Proof.Laws.EncodedLength
end

