-- ==== Sys2Proof/Tests/Slice0.lean ====
section
/-! SUPPORT. The model's own tests: ill-formed records are refused, a word of every row decodes, single
steps against the vectors of spec/95_test_vectors.md, and a witness for the hypotheses of each
obligation that has some. -/

namespace Sys2Proof.Tests

open Sys2Proof Sys2Proof.Machine Sys2Proof.Claims

/-! Well-formedness (R59): a record each check refuses, and what the decoder answers. -/

theorem test_size_too_small : Record.wf publishedTable ⟨0xA9, 0x10, 0x00, 1⟩ = false := by decide
theorem test_size_too_large : Record.wf publishedTable ⟨0xA9, 0x10, 0x00, 3⟩ = false := by decide
theorem test_size_zero_unknown_opcode : Record.wf publishedTable ⟨0x02, 0x00, 0x00, 0⟩ = false := by decide
theorem test_size_four_unknown_opcode : Record.wf publishedTable ⟨0x02, 0x00, 0x00, 4⟩ = false := by decide
theorem test_padding_ob0 : Record.wf publishedTable ⟨0xEA, 0x01, 0x00, 1⟩ = false := by decide
theorem test_padding_ob1_one_byte : Record.wf publishedTable ⟨0xEA, 0x00, 0x01, 1⟩ = false := by decide
theorem test_padding_ob1_two_bytes : Record.wf publishedTable ⟨0xA9, 0x10, 0x01, 2⟩ = false := by decide
theorem test_well_formed : Record.wf publishedTable ⟨0xAD, 0x12, 0x34, 3⟩ = true ∧
    Record.wf publishedTable ⟨0xA9, 0x10, 0x00, 2⟩ = true ∧
    Record.wf publishedTable ⟨0xEA, 0x00, 0x00, 1⟩ = true := by decide
theorem test_ill_formed_record_refused :
    decodeRecord publishedTable ⟨0xA9, 0x10, 0x01, 2⟩ = .error .illFormed := rfl
theorem test_truncated_stream : decode publishedTable [0xAD, 0x34] = .error .truncated := rfl

/-! A word of every row, written out from R51, R53 and R58: the opcode byte, then the operand bytes, the
low one first. -/

theorem test_words_adc :
    decode publishedTable [0x61, 0x86] = .ok (.adcIzx 0x86, []) ∧
    decode publishedTable [0x65, 0x86] = .ok (.adcZp 0x86, []) ∧
    decode publishedTable [0x69, 0x86] = .ok (.adcImm 0x86, []) ∧
    decode publishedTable [0x6D, 0x34, 0x12] = .ok (.adcAbs 0x1234, []) ∧
    decode publishedTable [0x71, 0x86] = .ok (.adcIzy 0x86, []) ∧
    decode publishedTable [0x75, 0x86] = .ok (.adcZpx 0x86, []) ∧
    decode publishedTable [0x79, 0x34, 0x12] = .ok (.adcAby 0x1234, []) ∧
    decode publishedTable [0x7D, 0x34, 0x12] = .ok (.adcAbx 0x1234, []) :=
  ⟨rfl, rfl, rfl, rfl, rfl, rfl, rfl, rfl⟩

theorem test_words_and :
    decode publishedTable [0x21, 0x86] = .ok (.andIzx 0x86, []) ∧
    decode publishedTable [0x25, 0x86] = .ok (.andZp 0x86, []) ∧
    decode publishedTable [0x29, 0x86] = .ok (.andImm 0x86, []) ∧
    decode publishedTable [0x2D, 0x34, 0x12] = .ok (.andAbs 0x1234, []) ∧
    decode publishedTable [0x31, 0x86] = .ok (.andIzy 0x86, []) ∧
    decode publishedTable [0x35, 0x86] = .ok (.andZpx 0x86, []) ∧
    decode publishedTable [0x39, 0x34, 0x12] = .ok (.andAby 0x1234, []) ∧
    decode publishedTable [0x3D, 0x34, 0x12] = .ok (.andAbx 0x1234, []) :=
  ⟨rfl, rfl, rfl, rfl, rfl, rfl, rfl, rfl⟩

theorem test_words_asl :
    decode publishedTable [0x06, 0x86] = .ok (.aslZp 0x86, []) ∧
    decode publishedTable [0x0A] = .ok (.aslAcc, []) ∧
    decode publishedTable [0x0E, 0x34, 0x12] = .ok (.aslAbs 0x1234, []) ∧
    decode publishedTable [0x16, 0x86] = .ok (.aslZpx 0x86, []) ∧
    decode publishedTable [0x1E, 0x34, 0x12] = .ok (.aslAbx 0x1234, []) :=
  ⟨rfl, rfl, rfl, rfl, rfl⟩

theorem test_words_bcc :
    decode publishedTable [0x90, 0x86] = .ok (.bcc 0x86, []) :=
  rfl

theorem test_words_bcs :
    decode publishedTable [0xB0, 0x86] = .ok (.bcs 0x86, []) :=
  rfl

theorem test_words_beq :
    decode publishedTable [0xF0, 0x86] = .ok (.beq 0x86, []) :=
  rfl

theorem test_words_bit :
    decode publishedTable [0x24, 0x86] = .ok (.bitZp 0x86, []) ∧
    decode publishedTable [0x2C, 0x34, 0x12] = .ok (.bitAbs 0x1234, []) :=
  ⟨rfl, rfl⟩

theorem test_words_bmi :
    decode publishedTable [0x30, 0x86] = .ok (.bmi 0x86, []) :=
  rfl

theorem test_words_bne :
    decode publishedTable [0xD0, 0x86] = .ok (.bne 0x86, []) :=
  rfl

theorem test_words_bpl :
    decode publishedTable [0x10, 0x86] = .ok (.bpl 0x86, []) :=
  rfl

theorem test_words_brk :
    decode publishedTable [0x00] = .ok (.brk, []) :=
  rfl

theorem test_words_bvc :
    decode publishedTable [0x50, 0x86] = .ok (.bvc 0x86, []) :=
  rfl

theorem test_words_bvs :
    decode publishedTable [0x70, 0x86] = .ok (.bvs 0x86, []) :=
  rfl

theorem test_words_clc :
    decode publishedTable [0x18] = .ok (.clc, []) :=
  rfl

theorem test_words_cld :
    decode publishedTable [0xD8] = .ok (.cld, []) :=
  rfl

theorem test_words_cli :
    decode publishedTable [0x58] = .ok (.cli, []) :=
  rfl

theorem test_words_clv :
    decode publishedTable [0xB8] = .ok (.clv, []) :=
  rfl

theorem test_words_cmp :
    decode publishedTable [0xC1, 0x86] = .ok (.cmpIzx 0x86, []) ∧
    decode publishedTable [0xC5, 0x86] = .ok (.cmpZp 0x86, []) ∧
    decode publishedTable [0xC9, 0x86] = .ok (.cmpImm 0x86, []) ∧
    decode publishedTable [0xCD, 0x34, 0x12] = .ok (.cmpAbs 0x1234, []) ∧
    decode publishedTable [0xD1, 0x86] = .ok (.cmpIzy 0x86, []) ∧
    decode publishedTable [0xD5, 0x86] = .ok (.cmpZpx 0x86, []) ∧
    decode publishedTable [0xD9, 0x34, 0x12] = .ok (.cmpAby 0x1234, []) ∧
    decode publishedTable [0xDD, 0x34, 0x12] = .ok (.cmpAbx 0x1234, []) :=
  ⟨rfl, rfl, rfl, rfl, rfl, rfl, rfl, rfl⟩

theorem test_words_cpx :
    decode publishedTable [0xE0, 0x86] = .ok (.cpxImm 0x86, []) ∧
    decode publishedTable [0xE4, 0x86] = .ok (.cpxZp 0x86, []) ∧
    decode publishedTable [0xEC, 0x34, 0x12] = .ok (.cpxAbs 0x1234, []) :=
  ⟨rfl, rfl, rfl⟩

theorem test_words_cpy :
    decode publishedTable [0xC0, 0x86] = .ok (.cpyImm 0x86, []) ∧
    decode publishedTable [0xC4, 0x86] = .ok (.cpyZp 0x86, []) ∧
    decode publishedTable [0xCC, 0x34, 0x12] = .ok (.cpyAbs 0x1234, []) :=
  ⟨rfl, rfl, rfl⟩

theorem test_words_dec :
    decode publishedTable [0xC6, 0x86] = .ok (.decZp 0x86, []) ∧
    decode publishedTable [0xCE, 0x34, 0x12] = .ok (.decAbs 0x1234, []) ∧
    decode publishedTable [0xD6, 0x86] = .ok (.decZpx 0x86, []) ∧
    decode publishedTable [0xDE, 0x34, 0x12] = .ok (.decAbx 0x1234, []) :=
  ⟨rfl, rfl, rfl, rfl⟩

theorem test_words_dex :
    decode publishedTable [0xCA] = .ok (.dex, []) :=
  rfl

theorem test_words_dey :
    decode publishedTable [0x88] = .ok (.dey, []) :=
  rfl

theorem test_words_eor :
    decode publishedTable [0x41, 0x86] = .ok (.eorIzx 0x86, []) ∧
    decode publishedTable [0x45, 0x86] = .ok (.eorZp 0x86, []) ∧
    decode publishedTable [0x49, 0x86] = .ok (.eorImm 0x86, []) ∧
    decode publishedTable [0x4D, 0x34, 0x12] = .ok (.eorAbs 0x1234, []) ∧
    decode publishedTable [0x51, 0x86] = .ok (.eorIzy 0x86, []) ∧
    decode publishedTable [0x55, 0x86] = .ok (.eorZpx 0x86, []) ∧
    decode publishedTable [0x59, 0x34, 0x12] = .ok (.eorAby 0x1234, []) ∧
    decode publishedTable [0x5D, 0x34, 0x12] = .ok (.eorAbx 0x1234, []) :=
  ⟨rfl, rfl, rfl, rfl, rfl, rfl, rfl, rfl⟩

theorem test_words_inc :
    decode publishedTable [0xE6, 0x86] = .ok (.incZp 0x86, []) ∧
    decode publishedTable [0xEE, 0x34, 0x12] = .ok (.incAbs 0x1234, []) ∧
    decode publishedTable [0xF6, 0x86] = .ok (.incZpx 0x86, []) ∧
    decode publishedTable [0xFE, 0x34, 0x12] = .ok (.incAbx 0x1234, []) :=
  ⟨rfl, rfl, rfl, rfl⟩

theorem test_words_inx :
    decode publishedTable [0xE8] = .ok (.inx, []) :=
  rfl

theorem test_words_iny :
    decode publishedTable [0xC8] = .ok (.iny, []) :=
  rfl

theorem test_words_jmp :
    decode publishedTable [0x4C, 0x34, 0x12] = .ok (.jmpAbs 0x1234, []) ∧
    decode publishedTable [0x6C, 0x34, 0x12] = .ok (.jmpInd 0x1234, []) :=
  ⟨rfl, rfl⟩

theorem test_words_jsr :
    decode publishedTable [0x20, 0x34, 0x12] = .ok (.jsrAbs 0x1234, []) :=
  rfl

theorem test_words_lda :
    decode publishedTable [0xA1, 0x86] = .ok (.ldaIzx 0x86, []) ∧
    decode publishedTable [0xA5, 0x86] = .ok (.ldaZp 0x86, []) ∧
    decode publishedTable [0xA9, 0x86] = .ok (.ldaImm 0x86, []) ∧
    decode publishedTable [0xAD, 0x34, 0x12] = .ok (.ldaAbs 0x1234, []) ∧
    decode publishedTable [0xB1, 0x86] = .ok (.ldaIzy 0x86, []) ∧
    decode publishedTable [0xB5, 0x86] = .ok (.ldaZpx 0x86, []) ∧
    decode publishedTable [0xB9, 0x34, 0x12] = .ok (.ldaAby 0x1234, []) ∧
    decode publishedTable [0xBD, 0x34, 0x12] = .ok (.ldaAbx 0x1234, []) :=
  ⟨rfl, rfl, rfl, rfl, rfl, rfl, rfl, rfl⟩

theorem test_words_ldx :
    decode publishedTable [0xA2, 0x86] = .ok (.ldxImm 0x86, []) ∧
    decode publishedTable [0xA6, 0x86] = .ok (.ldxZp 0x86, []) ∧
    decode publishedTable [0xAE, 0x34, 0x12] = .ok (.ldxAbs 0x1234, []) ∧
    decode publishedTable [0xB6, 0x86] = .ok (.ldxZpy 0x86, []) ∧
    decode publishedTable [0xBE, 0x34, 0x12] = .ok (.ldxAby 0x1234, []) :=
  ⟨rfl, rfl, rfl, rfl, rfl⟩

theorem test_words_ldy :
    decode publishedTable [0xA0, 0x86] = .ok (.ldyImm 0x86, []) ∧
    decode publishedTable [0xA4, 0x86] = .ok (.ldyZp 0x86, []) ∧
    decode publishedTable [0xAC, 0x34, 0x12] = .ok (.ldyAbs 0x1234, []) ∧
    decode publishedTable [0xB4, 0x86] = .ok (.ldyZpx 0x86, []) ∧
    decode publishedTable [0xBC, 0x34, 0x12] = .ok (.ldyAbx 0x1234, []) :=
  ⟨rfl, rfl, rfl, rfl, rfl⟩

theorem test_words_lsr :
    decode publishedTable [0x46, 0x86] = .ok (.lsrZp 0x86, []) ∧
    decode publishedTable [0x4A] = .ok (.lsrAcc, []) ∧
    decode publishedTable [0x4E, 0x34, 0x12] = .ok (.lsrAbs 0x1234, []) ∧
    decode publishedTable [0x56, 0x86] = .ok (.lsrZpx 0x86, []) ∧
    decode publishedTable [0x5E, 0x34, 0x12] = .ok (.lsrAbx 0x1234, []) :=
  ⟨rfl, rfl, rfl, rfl, rfl⟩

theorem test_words_nop :
    decode publishedTable [0xEA] = .ok (.nop, []) :=
  rfl

theorem test_words_ora :
    decode publishedTable [0x01, 0x86] = .ok (.oraIzx 0x86, []) ∧
    decode publishedTable [0x05, 0x86] = .ok (.oraZp 0x86, []) ∧
    decode publishedTable [0x09, 0x86] = .ok (.oraImm 0x86, []) ∧
    decode publishedTable [0x0D, 0x34, 0x12] = .ok (.oraAbs 0x1234, []) ∧
    decode publishedTable [0x11, 0x86] = .ok (.oraIzy 0x86, []) ∧
    decode publishedTable [0x15, 0x86] = .ok (.oraZpx 0x86, []) ∧
    decode publishedTable [0x19, 0x34, 0x12] = .ok (.oraAby 0x1234, []) ∧
    decode publishedTable [0x1D, 0x34, 0x12] = .ok (.oraAbx 0x1234, []) :=
  ⟨rfl, rfl, rfl, rfl, rfl, rfl, rfl, rfl⟩

theorem test_words_pha :
    decode publishedTable [0x48] = .ok (.pha, []) :=
  rfl

theorem test_words_php :
    decode publishedTable [0x08] = .ok (.php, []) :=
  rfl

theorem test_words_pla :
    decode publishedTable [0x68] = .ok (.pla, []) :=
  rfl

theorem test_words_plp :
    decode publishedTable [0x28] = .ok (.plp, []) :=
  rfl

theorem test_words_rol :
    decode publishedTable [0x26, 0x86] = .ok (.rolZp 0x86, []) ∧
    decode publishedTable [0x2A] = .ok (.rolAcc, []) ∧
    decode publishedTable [0x2E, 0x34, 0x12] = .ok (.rolAbs 0x1234, []) ∧
    decode publishedTable [0x36, 0x86] = .ok (.rolZpx 0x86, []) ∧
    decode publishedTable [0x3E, 0x34, 0x12] = .ok (.rolAbx 0x1234, []) :=
  ⟨rfl, rfl, rfl, rfl, rfl⟩

theorem test_words_ror :
    decode publishedTable [0x66, 0x86] = .ok (.rorZp 0x86, []) ∧
    decode publishedTable [0x6A] = .ok (.rorAcc, []) ∧
    decode publishedTable [0x6E, 0x34, 0x12] = .ok (.rorAbs 0x1234, []) ∧
    decode publishedTable [0x76, 0x86] = .ok (.rorZpx 0x86, []) ∧
    decode publishedTable [0x7E, 0x34, 0x12] = .ok (.rorAbx 0x1234, []) :=
  ⟨rfl, rfl, rfl, rfl, rfl⟩

theorem test_words_rti :
    decode publishedTable [0x40] = .ok (.rti, []) :=
  rfl

theorem test_words_rts :
    decode publishedTable [0x60] = .ok (.rts, []) :=
  rfl

theorem test_words_sbc :
    decode publishedTable [0xE1, 0x86] = .ok (.sbcIzx 0x86, []) ∧
    decode publishedTable [0xE5, 0x86] = .ok (.sbcZp 0x86, []) ∧
    decode publishedTable [0xE9, 0x86] = .ok (.sbcImm 0x86, []) ∧
    decode publishedTable [0xED, 0x34, 0x12] = .ok (.sbcAbs 0x1234, []) ∧
    decode publishedTable [0xF1, 0x86] = .ok (.sbcIzy 0x86, []) ∧
    decode publishedTable [0xF5, 0x86] = .ok (.sbcZpx 0x86, []) ∧
    decode publishedTable [0xF9, 0x34, 0x12] = .ok (.sbcAby 0x1234, []) ∧
    decode publishedTable [0xFD, 0x34, 0x12] = .ok (.sbcAbx 0x1234, []) :=
  ⟨rfl, rfl, rfl, rfl, rfl, rfl, rfl, rfl⟩

theorem test_words_sec :
    decode publishedTable [0x38] = .ok (.sec, []) :=
  rfl

theorem test_words_sed :
    decode publishedTable [0xF8] = .ok (.sed, []) :=
  rfl

theorem test_words_sei :
    decode publishedTable [0x78] = .ok (.sei, []) :=
  rfl

theorem test_words_sta :
    decode publishedTable [0x81, 0x86] = .ok (.staIzx 0x86, []) ∧
    decode publishedTable [0x85, 0x86] = .ok (.staZp 0x86, []) ∧
    decode publishedTable [0x8D, 0x34, 0x12] = .ok (.staAbs 0x1234, []) ∧
    decode publishedTable [0x91, 0x86] = .ok (.staIzy 0x86, []) ∧
    decode publishedTable [0x95, 0x86] = .ok (.staZpx 0x86, []) ∧
    decode publishedTable [0x99, 0x34, 0x12] = .ok (.staAby 0x1234, []) ∧
    decode publishedTable [0x9D, 0x34, 0x12] = .ok (.staAbx 0x1234, []) :=
  ⟨rfl, rfl, rfl, rfl, rfl, rfl, rfl⟩

theorem test_words_stx :
    decode publishedTable [0x86, 0x86] = .ok (.stxZp 0x86, []) ∧
    decode publishedTable [0x8E, 0x34, 0x12] = .ok (.stxAbs 0x1234, []) ∧
    decode publishedTable [0x96, 0x86] = .ok (.stxZpy 0x86, []) :=
  ⟨rfl, rfl, rfl⟩

theorem test_words_sty :
    decode publishedTable [0x84, 0x86] = .ok (.styZp 0x86, []) ∧
    decode publishedTable [0x8C, 0x34, 0x12] = .ok (.styAbs 0x1234, []) ∧
    decode publishedTable [0x94, 0x86] = .ok (.styZpx 0x86, []) :=
  ⟨rfl, rfl, rfl⟩

theorem test_words_tax :
    decode publishedTable [0xAA] = .ok (.tax, []) :=
  rfl

theorem test_words_tay :
    decode publishedTable [0xA8] = .ok (.tay, []) :=
  rfl

theorem test_words_tsx :
    decode publishedTable [0xBA] = .ok (.tsx, []) :=
  rfl

theorem test_words_txa :
    decode publishedTable [0x8A] = .ok (.txa, []) :=
  rfl

theorem test_words_txs :
    decode publishedTable [0x9A] = .ok (.txs, []) :=
  rfl

theorem test_words_tya :
    decode publishedTable [0x98] = .ok (.tya, []) :=
  rfl

/-! Single steps. The number after `v` is the vector of spec/95_test_vectors.md. -/

/-- Cold boot with zero memory and the default parameters (spec/95_test_vectors.md, conventions). -/
def base : State := State.coldBoot coldConfig []

/-- The same with `INDEX_INCDEC` true. -/
def optBase : State := State.coldBoot { coldConfig with indexIncdec := true } []

/-- The flags named by their letters, the others clear. -/
def fl (names : String) : Flags :=
  let has := fun c => names.toList.contains c
  ⟨has 'C', has 'Z', has 'I', has 'D', has 'V', has 'N'⟩

/-- The state with bytes stored at addresses. -/
def put (cells : List (Addr × Byte)) (s : State) : State :=
  cells.foldl (fun t c => t.store c.1 c.2) s

/-- The state with bytes stored from `pc` on. -/
def place (bytes : List Byte) (s : State) : State :=
  put (bytes.mapIdx fun k b => (s.pc + BitVec.ofNat 16 k, b)) s

def nextOf : Result → Option State
  | .next s => some s
  | _ => none

def faultOf : Result → Option Fault
  | .fault f => some f
  | _ => none

theorem test_v5_ldx_zpy_wraps :
    let s := place [0xB6, 0xFF] (put [(0x0001, 0x66), (0x0101, 0x77)]
      { base with pc := 0x0200, y := 0x02 })
    nextOf (step s) = some (put []
      { s with x := 0x66, y := 0x02, pc := 0x0202, cyc := 4, flags := fl "" }) := by
  decide

theorem test_v9_lda_abx_wraps :
    let s := place [0xBD, 0xFF, 0xFF] (put [(0x0000, 0x03)]
      { base with pc := 0x0200, x := 0x01 })
    nextOf (step s) = some (put []
      { s with a := 0x03, x := 0x01, pc := 0x0203, cyc := 5, flags := fl "" }) := by
  decide

theorem test_v16_lda_izx_pointer_wraps :
    let s := place [0xA1, 0xFF] (put [(0x0000, 0x12), (0x00FF, 0x34), (0x0100, 0x99), (0x1234, 0x07)]
      { base with pc := 0x0200, x := 0x00 })
    nextOf (step s) = some (put []
      { s with a := 0x07, x := 0x00, pc := 0x0202, cyc := 6, flags := fl "" }) := by
  decide

theorem test_v20_lda_izy_pointer_and_sum_wrap :
    let s := place [0xB1, 0xFF] (put [(0x0000, 0xFF), (0x00FF, 0xFF), (0x0100, 0x20)]
      { base with pc := 0x0200, y := 0x01 })
    nextOf (step s) = some (put []
      { s with a := 0xFF, y := 0x01, pc := 0x0202, cyc := 6, flags := fl "N" }) := by
  decide

theorem test_v21_sta_abx_no_penalty :
    let s := place [0x9D, 0xFF, 0x11] (put []
      { base with pc := 0x0200, a := 0x42, x := 0x01 })
    nextOf (step s) = some (put [(0x1200, 0x42)]
      { s with a := 0x42, x := 0x01, pc := 0x0203, cyc := 5, flags := fl "" }) := by
  decide

theorem test_v22_sta_izy :
    let s := place [0x91, 0x86] (put [(0x0086, 0x28), (0x0087, 0x40)]
      { base with pc := 0x0200, a := 0x43, y := 0xE0 })
    nextOf (step s) = some (put [(0x4108, 0x43)]
      { s with a := 0x43, y := 0xE0, pc := 0x0202, cyc := 6, flags := fl "" }) := by
  decide

theorem test_v24_lda_imm_zero :
    let s := place [0xA9, 0x00] (put []
      { base with pc := 0x0200, a := 0x55, flags := fl "N" })
    nextOf (step s) = some (put []
      { s with a := 0x00, pc := 0x0202, cyc := 2, flags := fl "Z" }) := by
  decide

theorem test_v28_ldx_aby :
    let s := place [0xBE, 0x00, 0x12] (put [(0x12FF, 0x81)]
      { base with pc := 0x0200, y := 0xFF })
    nextOf (step s) = some (put []
      { s with x := 0x81, y := 0xFF, pc := 0x0203, cyc := 4, flags := fl "N" }) := by
  decide

theorem test_v31_ldy_abx_crosses :
    let s := place [0xBC, 0xFF, 0x11] (put [(0x1200, 0xFF)]
      { base with pc := 0x0200, x := 0x01 })
    nextOf (step s) = some (put []
      { s with x := 0x01, y := 0xFF, pc := 0x0203, cyc := 5, flags := fl "N" }) := by
  decide

theorem test_v34_sta_izx :
    let s := place [0x81, 0x20] (put [(0x0024, 0x74), (0x0025, 0x20)]
      { base with pc := 0x0200, a := 0x77, x := 0x04 })
    nextOf (step s) = some (put [(0x2074, 0x77)]
      { s with a := 0x77, x := 0x04, pc := 0x0202, cyc := 6, flags := fl "" }) := by
  decide

theorem test_v36_stx_zpy :
    let s := place [0x96, 0xF0] (put []
      { base with pc := 0x0200, x := 0x08, y := 0x20 })
    nextOf (step s) = some (put [(0x0010, 0x08)]
      { s with x := 0x08, y := 0x20, pc := 0x0202, cyc := 4, flags := fl "" }) := by
  decide

theorem test_v37_sty_zpx_wraps :
    let s := place [0x94, 0xFF] (put []
      { base with pc := 0x0200, x := 0x02, y := 0x33 })
    nextOf (step s) = some (put [(0x0001, 0x33)]
      { s with x := 0x02, y := 0x33, pc := 0x0202, cyc := 4, flags := fl "" }) := by
  decide

theorem test_v39_tax_zero :
    let s := place [0xAA] (put []
      { base with pc := 0x0200, a := 0x00, x := 0x11 })
    nextOf (step s) = some (put []
      { s with a := 0x00, x := 0x00, pc := 0x0201, cyc := 2, flags := fl "Z" }) := by
  decide

theorem test_v40_tay :
    let s := place [0xA8] (put []
      { base with pc := 0x0200, a := 0x90 })
    nextOf (step s) = some (put []
      { s with a := 0x90, y := 0x90, pc := 0x0201, cyc := 2, flags := fl "N" }) := by
  decide

theorem test_v41_txa :
    let s := place [0x8A] (put []
      { base with pc := 0x0200, a := 0xFF, x := 0x01, flags := fl "N" })
    nextOf (step s) = some (put []
      { s with a := 0x01, x := 0x01, pc := 0x0201, cyc := 2, flags := fl "" }) := by
  decide

theorem test_v42_tya :
    let s := place [0x98] (put []
      { base with pc := 0x0200, y := 0xFF })
    nextOf (step s) = some (put []
      { s with a := 0xFF, y := 0xFF, pc := 0x0201, cyc := 2, flags := fl "N" }) := by
  decide

theorem test_v43_tsx :
    let s := place [0xBA] (put []
      { base with pc := 0x0200 })
    nextOf (step s) = some (put []
      { s with x := 0xFF, pc := 0x0201, cyc := 2, flags := fl "N" }) := by
  decide

theorem test_v46_txs_keeps_flags :
    let s := place [0x9A] (put []
      { base with pc := 0x0200, x := 0x00, sp := 0xFF, flags := fl "N" })
    nextOf (step s) = some (put []
      { s with x := 0x00, sp := 0x00, pc := 0x0201, cyc := 2, flags := fl "N" }) := by
  decide

theorem test_v51_adc_carry_and_overflow :
    let s := place [0x69, 0x80] (put []
      { base with pc := 0x0200, a := 0x80 })
    nextOf (step s) = some (put []
      { s with a := 0x00, pc := 0x0202, cyc := 2, flags := fl "CZV" }) := by
  decide

theorem test_v54_adc_ignores_decimal :
    let s := place [0x69, 0x01] (put []
      { base with pc := 0x0200, a := 0x09, flags := fl "D" })
    nextOf (step s) = some (put []
      { s with a := 0x0A, pc := 0x0202, cyc := 2, flags := fl "D" }) := by
  decide

theorem test_v56_sbc_borrow :
    let s := place [0xE9, 0x01] (put []
      { base with pc := 0x0200, a := 0x00, flags := fl "C" })
    nextOf (step s) = some (put []
      { s with a := 0xFF, pc := 0x0202, cyc := 2, flags := fl "N" }) := by
  decide

theorem test_v59_sbc_overflow :
    let s := place [0xE9, 0xB0] (put []
      { base with pc := 0x0200, a := 0x50, flags := fl "C" })
    nextOf (step s) = some (put []
      { s with a := 0xA0, pc := 0x0202, cyc := 2, flags := fl "VN" }) := by
  decide

theorem test_v66_and :
    let s := place [0x29, 0xF0] (put []
      { base with pc := 0x0200, a := 0xFF, flags := fl "CV" })
    nextOf (step s) = some (put []
      { s with a := 0xF0, pc := 0x0202, cyc := 2, flags := fl "CVN" }) := by
  decide

theorem test_v67_ora :
    let s := place [0x09, 0x80] (put []
      { base with pc := 0x0200, a := 0x01 })
    nextOf (step s) = some (put []
      { s with a := 0x81, pc := 0x0202, cyc := 2, flags := fl "N" }) := by
  decide

theorem test_v69_eor :
    let s := place [0x49, 0xFF] (put []
      { base with pc := 0x0200, a := 0x0F })
    nextOf (step s) = some (put []
      { s with a := 0xF0, pc := 0x0202, cyc := 2, flags := fl "N" }) := by
  decide

theorem test_v72_bit_zp :
    let s := place [0x24, 0x10] (put [(0x0010, 0xC0)]
      { base with pc := 0x0200, a := 0x01 })
    nextOf (step s) = some (put []
      { s with a := 0x01, pc := 0x0202, cyc := 3, flags := fl "ZVN" }) := by
  decide

theorem test_v75_bit_abs :
    let s := place [0x2C, 0x34, 0x12] (put [(0x1234, 0x3F)]
      { base with pc := 0x0200, a := 0x00, flags := fl "VN" })
    nextOf (step s) = some (put []
      { s with a := 0x00, pc := 0x0203, cyc := 4, flags := fl "Z" }) := by
  decide

theorem test_v79_cmp_byte_difference :
    let s := place [0xC9, 0x00] (put []
      { base with pc := 0x0200, a := 0x80 })
    nextOf (step s) = some (put []
      { s with a := 0x80, pc := 0x0202, cyc := 2, flags := fl "CN" }) := by
  decide

theorem test_v85_cpx_zp :
    let s := place [0xE4, 0x10] (put [(0x0010, 0x01)]
      { base with pc := 0x0200, x := 0x00 })
    nextOf (step s) = some (put []
      { s with x := 0x00, pc := 0x0202, cyc := 3, flags := fl "N" }) := by
  decide

theorem test_v87_cpy_abs :
    let s := place [0xCC, 0x34, 0x12] (put [(0x1234, 0x7F)]
      { base with pc := 0x0200, y := 0xFF })
    nextOf (step s) = some (put []
      { s with y := 0xFF, pc := 0x0203, cyc := 4, flags := fl "CN" }) := by
  decide

theorem test_v88_inc_wraps :
    let s := place [0xE6, 0x10] (put [(0x0010, 0xFF)]
      { base with pc := 0x0200, flags := fl "C" })
    nextOf (step s) = some (put [(0x0010, 0x00)]
      { s with pc := 0x0202, cyc := 5, flags := fl "CZ" }) := by
  decide

theorem test_v94_dec_abx :
    let s := place [0xDE, 0x00, 0x12] (put [(0x12FF, 0x80)]
      { base with pc := 0x0200, x := 0xFF })
    nextOf (step s) = some (put [(0x12FF, 0x7F)]
      { s with x := 0xFF, pc := 0x0203, cyc := 7, flags := fl "" }) := by
  decide

theorem test_v95_inx_absent :
    let s := place [0xE8] (put []
      { base with pc := 0x0200, x := 0xFF })
    faultOf (step s) = some (.unknownOpcode 0xE8) := by
  decide

theorem test_v96_inx :
    let s := place [0xE8] (put []
      { optBase with pc := 0x0200, x := 0xFF })
    nextOf (step s) = some (put []
      { s with x := 0x00, pc := 0x0201, cyc := 2, flags := fl "Z" }) := by
  decide

theorem test_v97_iny :
    let s := place [0xC8] (put []
      { optBase with pc := 0x0200, y := 0x7F })
    nextOf (step s) = some (put []
      { s with y := 0x80, pc := 0x0201, cyc := 2, flags := fl "N" }) := by
  decide

theorem test_v98_dex :
    let s := place [0xCA] (put []
      { optBase with pc := 0x0200, x := 0x00 })
    nextOf (step s) = some (put []
      { s with x := 0xFF, pc := 0x0201, cyc := 2, flags := fl "N" }) := by
  decide

theorem test_v99_dey :
    let s := place [0x88] (put []
      { optBase with pc := 0x0200, y := 0x01 })
    nextOf (step s) = some (put []
      { s with y := 0x00, pc := 0x0201, cyc := 2, flags := fl "Z" }) := by
  decide

theorem test_v100_dey_absent :
    let s := place [0x88] (put []
      { base with pc := 0x0200, y := 0x01 })
    faultOf (step s) = some (.unknownOpcode 0x88) := by
  decide

theorem test_v102_asl_acc :
    let s := place [0x0A] (put []
      { base with pc := 0x0200, a := 0x80, flags := fl "" })
    nextOf (step s) = some (put []
      { s with a := 0x00, pc := 0x0201, cyc := 2, flags := fl "CZ" }) := by
  decide

theorem test_v104_asl_zp :
    let s := place [0x06, 0x10] (put [(0x0010, 0x55)]
      { base with pc := 0x0200 })
    nextOf (step s) = some (put [(0x0010, 0xAA)]
      { s with pc := 0x0202, cyc := 5, flags := fl "N" }) := by
  decide

theorem test_v105_lsr_acc :
    let s := place [0x4A] (put []
      { base with pc := 0x0200, a := 0x01, flags := fl "N" })
    nextOf (step s) = some (put []
      { s with a := 0x00, pc := 0x0201, cyc := 2, flags := fl "CZ" }) := by
  decide

theorem test_v107_lsr_zp :
    let s := place [0x46, 0x10] (put [(0x0010, 0x03)]
      { base with pc := 0x0200 })
    nextOf (step s) = some (put [(0x0010, 0x01)]
      { s with pc := 0x0202, cyc := 5, flags := fl "C" }) := by
  decide

theorem test_v108_rol_acc :
    let s := place [0x2A] (put []
      { base with pc := 0x0200, a := 0x40, flags := fl "C" })
    nextOf (step s) = some (put []
      { s with a := 0x81, pc := 0x0201, cyc := 2, flags := fl "N" }) := by
  decide

theorem test_v111_rol_abs :
    let s := place [0x2E, 0x34, 0x12] (put [(0x1234, 0x80)]
      { base with pc := 0x0200, flags := fl "C" })
    nextOf (step s) = some (put [(0x1234, 0x01)]
      { s with pc := 0x0203, cyc := 6, flags := fl "C" }) := by
  decide

theorem test_v113_ror_acc :
    let s := place [0x6A] (put []
      { base with pc := 0x0200, a := 0x00, flags := fl "C" })
    nextOf (step s) = some (put []
      { s with a := 0x80, pc := 0x0201, cyc := 2, flags := fl "N" }) := by
  decide

theorem test_v114_ror_abx :
    let s := place [0x7E, 0x34, 0x12] (put [(0x1333, 0x02)]
      { base with pc := 0x0200, x := 0xFF, flags := fl "C" })
    nextOf (step s) = some (put [(0x1333, 0x81)]
      { s with x := 0xFF, pc := 0x0203, cyc := 7, flags := fl "N" }) := by
  decide

theorem test_v116_clc :
    let s := place [0x18] (put []
      { base with pc := 0x0200, flags := fl "C" })
    nextOf (step s) = some (put []
      { s with pc := 0x0201, cyc := 2, flags := fl "" }) := by
  decide

theorem test_v117_sec :
    let s := place [0x38] (put []
      { base with pc := 0x0200 })
    nextOf (step s) = some (put []
      { s with pc := 0x0201, cyc := 2, flags := fl "C" }) := by
  decide

theorem test_v118_cld :
    let s := place [0xD8] (put []
      { base with pc := 0x0200, flags := fl "D" })
    nextOf (step s) = some (put []
      { s with pc := 0x0201, cyc := 2, flags := fl "" }) := by
  decide

theorem test_v119_sed :
    let s := place [0xF8] (put []
      { base with pc := 0x0200 })
    nextOf (step s) = some (put []
      { s with pc := 0x0201, cyc := 2, flags := fl "D" }) := by
  decide

theorem test_v120_clv :
    let s := place [0xB8] (put []
      { base with pc := 0x0200, flags := fl "V" })
    nextOf (step s) = some (put []
      { s with pc := 0x0201, cyc := 2, flags := fl "" }) := by
  decide

theorem test_v121_cli_stages :
    let s := place [0x58] (put []
      { base with pc := 0x0200, flags := fl "I" })
    nextOf (step s) = some (put []
      { s with pc := 0x0201, cyc := 2, flags := fl "I", pend := some false }) := by
  decide

theorem test_v122_sei_stages :
    let s := place [0x78] (put []
      { base with pc := 0x0200 })
    nextOf (step s) = some (put []
      { s with pc := 0x0201, cyc := 2, flags := fl "", pend := some true }) := by
  decide

theorem test_v124_nop_applies_latch :
    let s := place [0xEA] (put []
      { base with pc := 0x0200, flags := fl "I", pend := some false })
    nextOf (step s) = some (put []
      { s with pc := 0x0201, cyc := 2, flags := fl "", pend := none }) := by
  decide

theorem test_v125_sei_after_pending :
    let s := place [0x78] (put []
      { base with pc := 0x0200, flags := fl "I", pend := some false })
    nextOf (step s) = some (put []
      { s with pc := 0x0201, cyc := 2, flags := fl "", pend := some true }) := by
  decide

theorem test_v128_pha_wraps :
    let s := place [0x48] (put []
      { base with pc := 0x0200, a := 0x99, sp := 0x00 })
    nextOf (step s) = some (put [(0x0100, 0x99)]
      { s with a := 0x99, sp := 0xFF, pc := 0x0201, cyc := 3, flags := fl "" }) := by
  decide

theorem test_v131_php_all_flags :
    let s := place [0x08] (put []
      { base with pc := 0x0200, flags := fl "CZIDVN" })
    nextOf (step s) = some (put [(0x01FF, 0xFF)]
      { s with sp := 0xFE, pc := 0x0201, cyc := 3, flags := fl "CZIDVN" }) := by
  decide

theorem test_v133_pla_wraps :
    let s := place [0x68] (put [(0x0100, 0x80)]
      { base with pc := 0x0200, sp := 0xFF })
    nextOf (step s) = some (put []
      { s with a := 0x80, sp := 0x00, pc := 0x0201, cyc := 4, flags := fl "N" }) := by
  decide

theorem test_v134_plp_sets :
    let s := place [0x28] (put [(0x01FF, 0xC7)]
      { base with pc := 0x0200, sp := 0xFE })
    nextOf (step s) = some (put []
      { s with sp := 0xFF, pc := 0x0201, cyc := 4, flags := fl "CZVN", pend := some true }) := by
  decide

theorem test_v135_plp_clears :
    let s := place [0x28] (put [(0x01FF, 0x00)]
      { base with pc := 0x0200, sp := 0xFE, flags := fl "CZIDVN" })
    nextOf (step s) = some (put []
      { s with sp := 0xFF, pc := 0x0201, cyc := 4, flags := fl "I", pend := some false }) := by
  decide

theorem test_v142_bcs :
    let s := place [0xB0, 0x04] (put []
      { base with pc := 0x0200, flags := fl "C" })
    nextOf (step s) = some (put []
      { s with pc := 0x0206, cyc := 3, flags := fl "C" }) := by
  decide

theorem test_v144_bne_backwards :
    let s := place [0xD0, 0xF9] (put []
      { base with pc := 0x0207, flags := fl "" })
    nextOf (step s) = some (put []
      { s with pc := 0x0202, cyc := 3, flags := fl "" }) := by
  decide

theorem test_v146_bmi_crosses :
    let s := place [0x30, 0x05] (put []
      { base with pc := 0x02FD, flags := fl "N" })
    nextOf (step s) = some (put []
      { s with pc := 0x0304, cyc := 4, flags := fl "N" }) := by
  decide

theorem test_v148_bpl_crosses :
    let s := place [0x10, 0xFC] (put []
      { base with pc := 0x0300, flags := fl "" })
    nextOf (step s) = some (put []
      { s with pc := 0x02FE, cyc := 4, flags := fl "" }) := by
  decide

theorem test_v150_bvc :
    let s := place [0x50, 0x00] (put []
      { base with pc := 0x0200, flags := fl "" })
    nextOf (step s) = some (put []
      { s with pc := 0x0202, cyc := 3, flags := fl "" }) := by
  decide

theorem test_v153_bvs_not_taken :
    let s := place [0x70, 0x7F] (put []
      { base with pc := 0x0200, flags := fl "" })
    nextOf (step s) = some (put []
      { s with pc := 0x0202, cyc := 2, flags := fl "" }) := by
  decide

theorem test_v156_bcc_page_of_the_branch :
    let s := place [0x90, 0x00] (put []
      { base with pc := 0x02FE, flags := fl "" })
    nextOf (step s) = some (put []
      { s with pc := 0x0300, cyc := 4, flags := fl "" }) := by
  decide

theorem test_v158_beq_wraps :
    let s := place [0xF0, 0x10] (put []
      { base with pc := 0xFFFE, flags := fl "Z" })
    nextOf (step s) = some (put []
      { s with pc := 0x0010, cyc := 4, flags := fl "Z" }) := by
  decide

theorem test_v160_jmp_abs :
    let s := place [0x4C, 0x00, 0x03] (put []
      { base with pc := 0x0200 })
    nextOf (step s) = some (put []
      { s with pc := 0x0300, cyc := 3, flags := fl "" }) := by
  decide

theorem test_v163_jsr_stack_wraps :
    let s := place [0x20, 0x00, 0x03] (put []
      { base with pc := 0x0200, sp := 0x00 })
    nextOf (step s) = some (put [(0x0100, 0x02), (0x01FF, 0x02)]
      { s with sp := 0xFE, pc := 0x0300, cyc := 6, flags := fl "" }) := by
  decide

theorem test_v164_jsr_fetch_wraps :
    let s := place [0x20, 0x34, 0x12] (put []
      { base with pc := 0xFFFE })
    nextOf (step s) = some (put []
      { s with sp := 0xFD, pc := 0x1234, cyc := 6, flags := fl "" }) := by
  decide

theorem test_v167_rts_stack_wraps :
    let s := place [0x60] (put [(0x0100, 0x10), (0x0101, 0x20)]
      { base with pc := 0x0200, sp := 0xFF })
    nextOf (step s) = some (put []
      { s with sp := 0x01, pc := 0x2011, cyc := 6, flags := fl "" }) := by
  decide

theorem test_v168_brk_from_the_source :
    let s := place [0x00] (put []
      { base with pc := 0xAB01, flags := fl "CN" })
    nextOf (step s) = some (put [(0x01FD, 0xB1), (0x01FE, 0x03), (0x01FF, 0xAB)]
      { s with sp := 0xFC, pc := 0xFFFE, cyc := 7, flags := fl "CIN" }) := by
  decide

theorem test_v170_brk_stack_wraps :
    let s := place [0x00] (put []
      { base with pc := 0x0200, sp := 0x01 })
    nextOf (step s) = some (put [(0x0100, 0x02), (0x0101, 0x02), (0x01FF, 0x30)]
      { s with sp := 0xFE, pc := 0xFFFE, cyc := 7, flags := fl "I" }) := by
  decide

theorem test_v173_rti_sets_i :
    let s := place [0x40] (put [(0x01FD, 0x04), (0x01FE, 0x00), (0x01FF, 0x03)]
      { base with pc := 0x0200, sp := 0xFC, flags := fl "CN" })
    nextOf (step s) = some (put []
      { s with sp := 0xFF, pc := 0x0300, cyc := 6, flags := fl "I" }) := by
  decide

theorem test_v174_rti_clears_i :
    let s := place [0x40] (put [(0x01FD, 0x00), (0x01FE, 0x00), (0x01FF, 0x03)]
      { base with pc := 0x0200, sp := 0xFC, flags := fl "I" })
    nextOf (step s) = some (put []
      { s with sp := 0xFF, pc := 0x0300, cyc := 6, flags := fl "" }) := by
  decide

theorem test_v175_unknown_02 :
    let s := place [0x02] (put []
      { base with pc := 0x0200 })
    faultOf (step s) = some (.unknownOpcode 0x02) := by
  decide

theorem test_v181_jmp_ind_faults :
    let s := place [0x6C, 0x00, 0x00] (put []
      { base with pc := 0x0200, flags := fl "I", pend := some false })
    faultOf (step s) = some (.unsupportedAddressingMode 0x6C) := by
  decide

/-- A record that is not well formed is refused at the interface; one whose opcode byte is a fault of
its own faults first (log entry 10). -/
theorem test_execute_ill_formed :
    execute ⟨0xA9, 0x10, 0x01, 2⟩ base = .refused .illFormedRecord ∧
      execute ⟨0x6C, 0x00, 0x00, 1⟩ base = .fault (.unsupportedAddressingMode 0x6C) := ⟨rfl, rfl⟩

/-- The host's two questions, on the word of `LDA $1234` as the opcode table numbers it. -/
theorem test_table_word :
    decodeTableWord 24 0x1234AD = some (.ldaAbs 0x1234) ∧
      nextOf (step (State.reset.withFetchWord 8 0xA9)) =
        some { State.reset.withFetchWord 8 0xA9 with
          pc := 2, cyc := 2, flags := fl "Z" } := by
  decide

/-! The parameters of R3 away from their defaults; the expected values follow from R89, R160 and R16. -/

/-- A table that gives NOP two other bytes with two costs and LDA absolute,X a fixed one, pairs LDA with
the zero page and `Y` and TXA with absolute,X, which R53 does not, and STA with an immediate byte, which
R103 excludes. -/
def otherTable : OpcodeTable :=
  [⟨0x80, .nop, .imp, 5, false⟩, ⟨0x82, .nop, .imp, 3, false⟩, ⟨0xBD, .lda, .abx, 4, false⟩,
   ⟨0x92, .lda, .zpy, 6, false⟩, ⟨0x93, .txa, .abx, 2, true⟩, ⟨0x9C, .sta, .imm, 2, false⟩]

def otherBase : State := State.coldBoot { coldConfig with opcodeTable := some otherTable } []

theorem test_other_table_decodes :
    decode otherTable [0x80] = .ok (.nop, []) ∧ decode otherTable [0x82] = .ok (.nop, []) ∧
      decode otherTable [0xEA] = .error (.unknownOpcode 0xEA) ∧
      decode otherTable [0x92, 0x10] = .error (.unlisted .lda (.mem (.zpy 0x10))) ∧
      encode otherTable .nop = [0x80] :=
  ⟨rfl, rfl, rfl, rfl, rfl⟩

/-- The cost of the opcode byte is charged, a crossing costs nothing, and a byte of R53 that the table lacks
faults. -/
theorem test_other_table_runs :
    (nextOf (step (place [0x80] otherBase))).map State.cyc = some 5 ∧
      (nextOf (step (place [0x82] otherBase))).map State.cyc = some 3 ∧
      (nextOf (step (place [0xBD, 0xFF, 0x11] { otherBase with x := 1 }))).map State.cyc = some 4 ∧
      faultOf (step (place [0xEA] otherBase)) = some (.unknownOpcode 0xEA) := by
  decide

/-- A pairing R53 does not list runs its executor on its operand (R75, R81, R100). -/
theorem test_unlisted_pairing :
    let s := place [0x92, 0xFF] (put [(0x0001, 0x80)] { otherBase with pc := 0x0200, y := 0x02 })
    nextOf (step s) = some { s with a := 0x80, pc := 0x0202, cyc := 6, flags := fl "N" } := by
  decide

/-- An executor that asks nothing of its operand still has the mode's length and crossing (R88 to R90); a
pairing whose operand does not serve the executor leaves its byte absent. -/
theorem test_unlisted_implied_and_no_such_pairing :
    (let s := place [0x93, 0xFF, 0x11] { otherBase with x := 1 }
     nextOf (step s) = some { s with a := 1, pc := 3, cyc := 3 }) ∧
      faultOf (step (place [0x9C, 0x10] otherBase)) = some (.unknownOpcode 0x9C) := by
  decide

/-- `FLAG_POS` the other way round: C at bit 7 and N at bit 0. -/
def otherFlagPos : FlagPos := { publishedFlagPos with c := 7, n := 0 }

theorem test_other_flag_pos :
    encodeStatus otherFlagPos (fl "C") = 0xB0 ∧ decodeStatus otherFlagPos (fl "") 0x01 = fl "N" ∧
      distinctPositions otherFlagPos = true ∧
      distinctPositions { publishedFlagPos with c := 7 } = false := by
  decide

/-- A counter of 8 bits wraps. -/
theorem test_cycle_width :
    (nextOf (step (place [0xEA]
      { State.coldBoot { coldConfig with cycleWidth := some 8 } [] with cyc := 0xFF }))).map State.cyc =
        some 1 := by
  decide

/-! Witnesses: for each obligation with hypotheses, states and operands that meet them together. -/

theorem witness_DecodeOfEncodeIsIdentity :
    (publishedTable.ok = true ∧ publishedTable.has (.ldaAbs 0xFFFF) = true) ∧
      otherTable.ok = true ∧ otherTable.has (.ldaAbx 0x1234) = true :=
  ⟨⟨publishedTable_ok, rfl⟩, rfl, rfl⟩

theorem witness_RecordDecodesExactlyItsInstruction :
    otherTable.ok = true ∧ decodeRecord otherTable ⟨0x82, 0, 0, 1⟩ = .ok .nop := ⟨rfl, rfl⟩

theorem witness_RecordPackingKeepsFields : (⟨0xFF, 0xFF, 0xFF, 3⟩ : Record).size < 4 := by decide

/-- `LDA $1234` across the end of memory. -/
def wrapped : State := place [0xAD, 0x34, 0x12] { base with pc := 0xFFFE }

/-- An instruction of the published table, one of the other table by its first byte and one by its second,
a pairing R53 does not list, and an instruction of each class of the last clause. -/
theorem witness_StepRunsDecodedInstruction :
    let read (s : State) := decode s.config.table [s.load s.pc, s.load (s.pc + 1#16), s.load (s.pc + 2#16)]
    (read wrapped = .ok (.ldaAbs 0x1234, []) ∧ wrapped.config.table = publishedTable) ∧
      (read (place [0x80] otherBase) = .ok (.nop, [0, 0]) ∧ otherBase.config.table.ok = true ∧
        otherBase.config.table.opByte .nop = (place [0x80] otherBase).load 0) ∧
      read (place [0x82] otherBase) = .ok (.nop, [0, 0]) ∧
      read (place [0x92, 0xFF] otherBase) = .error (.unlisted .lda (.mem (.zpy 0xFF))) ∧
      Instr.nop.cls = .tbl ∧ Instr.inx.cls = .opt :=
  ⟨⟨rfl, rfl⟩, ⟨rfl, rfl, rfl⟩, rfl, rfl, rfl, rfl⟩

theorem witness_StepRunsStoredInstruction :
    wrapped.config.table = publishedTable ∧
      (∀ k, k < (Instr.ldaAbs 0x1234).size → (encode wrapped.config.table (.ldaAbs 0x1234))[k]? =
        some (wrapped.load (wrapped.pc + BitVec.ofNat 16 k))) ∧
      (otherBase.config.table.ok = true ∧ otherBase.config.table.has .nop = true) ∧
      ∀ k, k < Instr.nop.size → (encode otherBase.config.table .nop)[k]? =
        some ((place [0x80] otherBase).load ((place [0x80] otherBase).pc + BitVec.ofNat 16 k)) :=
  ⟨rfl, by decide, ⟨rfl, rfl⟩, by decide⟩

theorem witness_AbsentOpcodeRaisesUnknownOpcode :
    base.config.table = publishedTable ∧
      ((0x02 : Byte) ∈ absentBytes ∧ (0xFF : Byte) ∈ absentBytes) ∧
      ((0xE8 : Byte) ∈ optionalBytes ∧ base.config.indexIncdec = false) ∧
      (∀ row ∈ otherBase.config.table, row.op = 0xEA → row.mnem.takes row.mode = false) ∧
      ∀ row ∈ otherBase.config.table, row.op = 0x9C → row.mnem.takes row.mode = false :=
  ⟨rfl, by decide, by decide, by decide, by decide⟩

theorem witness_JmpIndirectRaisesUnsupportedMode :
    (base.op = none ∧ { base with op := some 0x6C }.op = some 0x6C) ∧
      base.config.table = publishedTable ∧ (⟨0x6C, 0x12, 0x34, 3⟩ : Record).opCode = 0x6C :=
  ⟨⟨rfl, rfl⟩, rfl, rfl⟩

theorem witness_NothingElseFaults :
    base.config.table = publishedTable ∧ (base.load base.pc ≠ 0x6C ∧ base.load base.pc ∉ absentBytes ∧
      base.load base.pc ∉ optionalBytes) ∧
    ((place [0xE8] optBase).load 0 ∈ optionalBytes ∧
      (place [0xE8] optBase).config.indexIncdec = true) ∧
    ((place [0x80] otherBase).config.table.rowAt ((place [0x80] otherBase).load 0) =
        some ⟨0x80, .nop, .imp, 5, false⟩ ∧
      ¬ (Mnemonic.nop = .jmp ∧ Mode.imp = .ind) ∧ Mnemonic.nop ∉ [.inx, .iny, .dex, .dey]) ∧
    (place [0x92] otherBase).config.table.rowAt ((place [0x92] otherBase).load 0) =
      some ⟨0x92, .lda, .zpy, 6, false⟩ :=
  ⟨rfl, by decide, by decide, by decide, by decide⟩

theorem witness_ApplyStepComesFirst :
    { base with pend := some true }.pend = some true ∧ base.pend = none := by
  decide

theorem witness_LatchHoldsOnlyWhatWasStaged :
    ∀ w ∈ ([(0x58, .cli), (0x78, .sei), (0x28, .plp), (0xEA, .nop)] : List (Byte × Mnemonic)),
      ∃ row t, base.config.table.rowAt ((place [w.1] base).load 0) = some row ∧ row.mnem = w.2 ∧
        step (place [w.1] base) = .next t := by
  simp only [List.forall_mem_cons, List.not_mem_nil, false_imp_iff, implies_true, and_true]
  exact ⟨⟨_, _, rfl, rfl, rfl⟩, ⟨_, _, rfl, rfl, rfl⟩, ⟨_, _, rfl, rfl, rfl⟩, ⟨_, _, rfl, rfl, rfl⟩⟩

theorem witness_CliTakesEffectOneInstructionLater :
    (place [0x58, 0xEA] base).config.table = publishedTable ∧
      (place [0x58, 0xEA] base).load 0 = 0x58 ∧ (place [0x58, 0xEA] base).load 1 = 0xEA :=
  ⟨rfl, by decide⟩

/-- A state whose memory lists cells, and the step that pushes three more. -/
theorem witness_StepKeepsMemoryCanonical :
    ∃ t, Canonical (put [(0xFFFF, 1), (0x0000, 0)] base) ∧
      step (put [(0xFFFF, 1), (0x0000, 0)] base) = .next t :=
  ⟨_, by unfold Canonical; decide, rfl⟩

/-- Both ends of the range, a NOP and a BRK; a byte that costs other than the first of its instruction, and
an optional one. -/
theorem witness_CycleCounterRisesByTwoToSeven :
    (base.config.table = publishedTable ∧
      (∃ t, step (place [0xEA] base) = .next t ∧ t.cyc = base.cyc + 2) ∧
      ∃ t, step base = .next t ∧ t.cyc = base.cyc + 7) ∧
    (∃ row t, otherBase.config.table.rowAt ((place [0x82] otherBase).load 0) = some row ∧
      row.mnem.cls row.mode = .tbl ∧ step (place [0x82] otherBase) = .next t ∧ t.cyc = 3) ∧
    ∃ row t, optBase.config.table.rowAt ((place [0xE8] optBase).load 0) = some row ∧
      row.mnem.cls row.mode = .opt ∧ step (place [0xE8] optBase) = .next t :=
  ⟨⟨rfl, ⟨_, rfl, rfl⟩, _, rfl, rfl⟩, ⟨_, _, rfl, rfl, rfl, rfl⟩, _, _, rfl, rfl, rfl⟩

theorem witness_StepKeepsConfig : ∃ t, step base = .next t := ⟨_, rfl⟩

theorem witness_ReadAfterWrite : (0x0000 : Addr) ≠ 0xFFFF := by decide

/-- A record of each mode, at the boundary where its sum wraps. -/
theorem witness_EffectiveAddressOfEachMode :
    let s := put [(0x00, 0x12), (0xFF, 0x34)] { base with x := 0xFF, y := 0xFF }
    (∃ i, decodeRecord s.config.table ⟨0xA5, 0xFF, 0x00, 2⟩ = .ok i ∧ operandAddr i.operand s = some 0x00FF) ∧
    (∃ i, decodeRecord s.config.table ⟨0xB5, 0x01, 0x00, 2⟩ = .ok i ∧ operandAddr i.operand s = some 0x0000) ∧
    (∃ i, decodeRecord s.config.table ⟨0xB6, 0xFF, 0x00, 2⟩ = .ok i ∧ operandAddr i.operand s = some 0x00FE) ∧
    (∃ i, decodeRecord s.config.table ⟨0xAD, 0xFF, 0x00, 3⟩ = .ok i ∧ operandAddr i.operand s = some 0xFF00) ∧
    (∃ i, decodeRecord s.config.table ⟨0xBD, 0xFF, 0xFF, 3⟩ = .ok i ∧ operandAddr i.operand s = some 0x00FE) ∧
    (∃ i, decodeRecord s.config.table ⟨0xB9, 0xFF, 0x01, 3⟩ = .ok i ∧ operandAddr i.operand s = some 0x0000) ∧
    (∃ i, decodeRecord s.config.table ⟨0xA1, 0x00, 0x00, 2⟩ = .ok i ∧ operandAddr i.operand s = some 0x1234) ∧
    (∃ i, decodeRecord s.config.table ⟨0xB1, 0xFF, 0x00, 2⟩ = .ok i ∧ operandAddr i.operand s = some 0x1333) ∧
    (∃ i, decodeRecord s.config.table ⟨0x20, 0x03, 0x00, 3⟩ = .ok i ∧ i.operand = .target 0x0300) ∧
    (∃ i, decodeRecord s.config.table ⟨0x6C, 0xFF, 0xFF, 3⟩ = .ok i ∧ i.operand = .ind 0xFFFF) ∧
    (∃ i, decodeRecord s.config.table ⟨0x0A, 0x00, 0x00, 1⟩ = .ok i ∧ i.mode = .acc) ∧
    ∃ i, decodeRecord s.config.table ⟨0xA9, 0xFF, 0x00, 2⟩ = .ok i ∧ i.mode = .imm :=
  ⟨⟨_, rfl, rfl⟩, ⟨_, rfl, rfl⟩, ⟨_, rfl, rfl⟩, ⟨_, rfl, rfl⟩, ⟨_, rfl, rfl⟩, ⟨_, rfl, rfl⟩,
    ⟨_, rfl, rfl⟩, ⟨_, rfl, rfl⟩, ⟨_, rfl, rfl⟩, ⟨_, rfl, rfl⟩, ⟨_, rfl, rfl⟩, ⟨_, rfl, rfl⟩⟩

/-! The statements by mnemonic: an instruction of the mnemonic and a well-formed record of it. -/

/-- What `HasEncodings` and the effect clauses of a mnemonic ask for, met by one instruction. -/
def met (mn : Mnemonic) (i : Instr) : Bool :=
  decide (i.mnem = mn) && (encodeRecord publishedTable i).wf publishedTable &&
    decide ((encodeRecord publishedTable i).opCode = publishedTable.opByte i)

theorem witness_LdaLoadsAccumulator : met .lda (.ldaIzy 0xFF) = true := by decide
theorem witness_LdxLdyLoadIndex : met .ldx (.ldxZpy 0xFF) = true ∧ met .ldy (.ldyAbx 0xFFFF) = true := by
  decide
theorem witness_StoresWriteRegister :
    (met .sta (.staIzx 0xFF) = true ∧ base.a = base.a) ∧ met .stx (.stxZpy 0xFF) = true ∧
      met .sty (.styAbs 0xFFFF) = true := by
  decide
theorem witness_TransfersCopyRegisters :
    met .tax .tax = true ∧ met .tay .tay = true ∧ met .txa .txa = true ∧ met .tya .tya = true ∧
      met .tsx .tsx = true ∧ met .txs .txs = true := by
  decide
theorem witness_AdcAddsWithCarry : met .adc (.adcImm 0xFF) = true := by decide
theorem witness_SbcSubtractsWithBorrow : met .sbc (.sbcImm 0xFF) = true := by decide
theorem witness_LogicWritesAccumulator :
    met .and (.andImm 0) = true ∧ met .ora (.oraImm 0) = true ∧ met .eor (.eorImm 0) = true := by
  decide
theorem witness_BitTestsMemory : met .bit (.bitAbs 0xFFFF) = true := by decide
theorem witness_ComparesSetCarryZeroNegative :
    met .cmp (.cmpImm 0) = true ∧ met .cpx (.cpxImm 0) = true ∧ met .cpy (.cpyImm 0) = true := by
  decide
theorem witness_IncDecChangeMemoryByOne :
    met .inc (.incAbx 0xFFFF) = true ∧ met .dec (.decZp 0xFF) = true := by
  decide
theorem witness_IndexIncDecWhenPresent :
    optBase.config.indexIncdec = true ∧ met .inx .inx = true ∧ met .iny .iny = true ∧
      met .dex .dex = true ∧ met .dey .dey = true := by
  decide
theorem witness_IndexIncDecWhenAbsent :
    base.config.indexIncdec = false ∧ base.op = none ∧ { base with op := some 0xE8 }.op = some 0xE8 ∧
      Instr.inx.mnem ∈ [.inx, .iny, .dex, .dey] := by
  decide
theorem witness_AdcOverflowIsSigned : (Instr.adcImm 0x80).mnem = .adc := by decide
theorem witness_SbcDifferenceAndOverflow :
    (Instr.sbcImm 0x80).mnem = .sbc ∧ base.config.sbcVComplement = true := by
  decide
theorem witness_SbcIsAdcOfComplement :
    base.config.sbcVComplement = true ∧
      rowCycles (base.row .sbc .imm) = rowCycles (base.row .adc .imm) :=
  ⟨rfl, rfl⟩

/-- An instruction for each of the four clauses. -/
theorem witness_DecimalAndInterruptFlagsNeverRead :
    Instr.nop.mnem ∉ [.php, .brk, .cld, .sed, .plp, .rti] ∧
      Instr.rti.mnem ∈ [.cld, .sed, .plp, .rti] ∧ Instr.plp.mnem ∉ [.php, .brk, .rti] := by
  decide

theorem witness_ShiftsFillWithZero : met .asl .aslAcc = true ∧ met .lsr (.lsrAbx 0xFFFF) = true := by
  decide
theorem witness_RotatesGoThroughCarry : met .rol .rolAcc = true ∧ met .ror (.rorAbx 0xFFFF) = true := by
  decide
theorem witness_NineRotationsRestore :
    (Instr.rolAcc = .rolAcc ∨ Instr.rolAcc = .rorAcc) ∧ (Instr.rorAcc = .rolAcc ∨ Instr.rorAcc = .rorAcc) := by
  decide
theorem witness_FlagInstructionsSetOneFlag :
    met .clc .clc = true ∧ met .sec .sec = true ∧ met .cld .cld = true ∧ met .sed .sed = true ∧
      met .clv .clv = true := by
  decide
theorem witness_CliSeiStageTheLatch : met .cli .cli = true ∧ met .sei .sei = true := by decide
theorem witness_PushesStoreThenDecrement : met .pha .pha = true ∧ met .php .php = true := by decide
theorem witness_PlaPopsAccumulator : met .pla .pla = true := by decide
theorem witness_PlpPopsFlagsAndStagesI : met .plp .plp = true := by decide
theorem witness_NopOnlyAdvances :
    met .nop .nop = true ∧ base.config.table = publishedTable ∧ base.op = none ∧
      { base with op := some 0xEA }.op = some 0xEA :=
  ⟨by decide, rfl, rfl, rfl⟩

theorem witness_StatusByteRoundTrip :
    distinctPositions publishedFlagPos = true ∧ distinctPositions otherFlagPos = true := by
  decide

/-- The bytes on both sides of the pushed one, for the two ends of the stack page. -/
theorem witness_PopReturnsWhatPushStored :
    (0x01FE : Addr).toNat ≠ inStack 0xFF ∧ (0x0200 : Addr).toNat ≠ inStack 0xFF ∧
      (0x00FF : Addr).toNat ≠ inStack 0x00 ∧ (0x0101 : Addr).toNat ≠ inStack 0x00 := by
  decide

theorem witness_BranchesTestOneFlag :
    met .bcc (.bcc 0x80) = true ∧ met .bcs (.bcs 0x80) = true ∧ met .beq (.beq 0x7F) = true ∧
      met .bne (.bne 0x7F) = true ∧ met .bmi (.bmi 0) = true ∧ met .bpl (.bpl 0) = true ∧
      met .bvc (.bvc 0xFE) = true ∧ met .bvs (.bvs 0xFE) = true := by
  decide
theorem witness_JmpAbsoluteSetsPc : met .jmp (.jmpAbs 0xFFFF) = true := by decide
theorem witness_JsrPushesReturnAddress : met .jsr (.jsrAbs 0xFFFF) = true := by decide
theorem witness_RtsPopsReturnAddress : met .rts .rts = true := by decide
theorem witness_BrkTakesTheTrap : met .brk .brk = true := by decide
theorem witness_RtiRestoresFlagsAndPc : met .rti .rti = true := by decide

theorem witness_RtiReturnsFromBrk :
    (put [(0xFFFE, 0x40)] base).config.table = publishedTable ∧
      distinctPositions (put [(0xFFFE, 0x40)] base).config.flagPos = true ∧
      (put [(0xFFFE, 0x40)] base).load 0 = 0x00 ∧ (put [(0xFFFE, 0x40)] base).load 0xFFFE#16 = 0x40 :=
  ⟨rfl, by decide⟩

/-- A rotate of memory completes and is the writer of none of the four registers. -/
theorem witness_RegistersChangeOnlyByTheirWriters :
    ∃ t, exec (.rolZp 0xFF) base = .next t ∧
      (Instr.rolZp 0xFF).mnem ∉ [.lda, .txa, .tya, .pla, .adc, .sbc, .and, .ora, .eor] ∧
      ¬ ((Instr.rolZp 0xFF).mnem ∈ [.asl, .lsr, .rol, .ror] ∧ (Instr.rolZp 0xFF).operand = .acc) ∧
      (Instr.rolZp 0xFF).mnem ∉ [.ldx, .tax, .tsx, .inx, .dex] ∧
      (Instr.rolZp 0xFF).mnem ∉ [.ldy, .tay, .iny, .dey] ∧
      (Instr.rolZp 0xFF).mnem ∉ [.pha, .php, .pla, .plp, .jsr, .rts, .brk, .rti, .txs] :=
  ⟨_, rfl, by decide⟩

/-- A store completes and is the writer of no flag. -/
theorem witness_FlagsChangeOnlyByTheirWriters :
    ∃ t, exec (.staZp 0xFF) base = .next t ∧
      (Instr.staZp 0xFF).mnem ∉ [.adc, .sbc, .cmp, .cpx, .cpy, .asl, .lsr, .rol, .ror, .clc, .sec, .plp,
        .rti] ∧
      (Instr.staZp 0xFF).mnem ∉ [.lda, .ldx, .ldy, .tax, .tay, .txa, .tya, .tsx, .pla, .adc, .sbc, .and,
        .ora, .eor, .bit, .cmp, .cpx, .cpy, .inc, .dec, .asl, .lsr, .rol, .ror, .plp, .rti, .inx, .iny,
        .dex, .dey] ∧
      (Instr.staZp 0xFF).mnem ∉ [.brk, .rti] ∧ (Instr.staZp 0xFF).mnem ∉ [.cld, .sed, .plp, .rti] ∧
      (Instr.staZp 0xFF).mnem ∉ [.adc, .sbc, .bit, .clv, .plp, .rti] ∧
      (Instr.staZp 0xFF).mnem ∉ [.cli, .sei, .plp] :=
  ⟨_, rfl, by decide⟩

/-- A BRK stores three bytes at the top of the stack page; the bytes around them are not stored to. -/
theorem witness_MemoryChangesOnlyWhereStored :
    ∃ t, exec .brk base = .next t ∧ (0x0200 : Addr) ∉ storedAddrs .brk base ∧
      (0x01FC : Addr) ∉ storedAddrs .brk base ∧ (0x01FD : Addr) ∈ storedAddrs .brk base :=
  ⟨_, rfl, by decide⟩

end Sys2Proof.Tests
end

/-! SUPPORT. The frames of a transaction: what the end of a table-dispatched opcode, each executor and each
control transfer leave as it was, and what a completed step is by the row of its opcode byte. -/

namespace Sys2Proof.Machine

open Sys2Proof Sys2Proof.Claims

/-! The end of a table-dispatched opcode writes `pc` and `CYC` only (R89, R90). -/

section
variable (mn : Mnemonic) (md : Mode) (crossed : Bool) (s : State)

@[simp] theorem endTable_a : (endTable mn md crossed s).a = s.a := rfl
@[simp] theorem endTable_x : (endTable mn md crossed s).x = s.x := rfl
@[simp] theorem endTable_y : (endTable mn md crossed s).y = s.y := rfl
@[simp] theorem endTable_sp : (endTable mn md crossed s).sp = s.sp := rfl
@[simp] theorem endTable_flags : (endTable mn md crossed s).flags = s.flags := rfl
@[simp] theorem endTable_pend : (endTable mn md crossed s).pend = s.pend := rfl
@[simp] theorem endTable_mem : (endTable mn md crossed s).mem = s.mem := rfl
@[simp] theorem endTable_op : (endTable mn md crossed s).op = s.op := rfl
@[simp] theorem endTable_config : (endTable mn md crossed s).config = s.config := rfl
@[simp] theorem endTable_pc : (endTable mn md crossed s).pc = s.pc + BitVec.ofNat 16 md.size := rfl
@[simp] theorem endTable_cyc : (endTable mn md crossed s).cyc =
    addCycles s.config.cycleWidth s.cyc
      (rowCycles (s.row mn md) + (rowSensitive (s.row mn md) && crossed).toNat) := rfl

end

/-! Each executor writes the registers and flags its rule names (R11, R12, R14, R17). -/

section
variable {mn : Mnemonic} {o : Operand} {s : State}

/-- INC and DEC take no accumulator operand, so that only the shifts and rotates write `A` through theirs. -/
theorem tableEffect_a (ht : mn.takes o.mode = true)
    (h : mn ∉ [.lda, .txa, .tya, .pla, .adc, .sbc, .and, .ora, .eor])
    (ha : ¬ (mn ∈ [.asl, .lsr, .rol, .ror] ∧ o = .acc)) : (tableEffect mn o s).a = s.a := by
  cases mn
  case lda | txa | tya | pla | adc | sbc | and | ora | eor => simp at h
  case asl | lsr | rol | ror =>
    cases o
    case acc => simp at ha
    all_goals rfl
  case inc | dec =>
    cases o
    case acc => cases ht
    all_goals rfl
  all_goals cases o <;> rfl

theorem tableEffect_x (h : mn ∉ [.ldx, .tax, .tsx, .inx, .dex]) : (tableEffect mn o s).x = s.x := by
  cases mn
  case ldx | tax | tsx | inx | dex => simp at h
  all_goals cases o <;> rfl

theorem tableEffect_y (h : mn ∉ [.ldy, .tay, .iny, .dey]) : (tableEffect mn o s).y = s.y := by
  cases mn
  case ldy | tay | iny | dey => simp at h
  all_goals cases o <;> rfl

theorem tableEffect_sp (h : mn ∉ [.pha, .php, .pla, .plp, .txs]) : (tableEffect mn o s).sp = s.sp := by
  cases mn
  case pha | php | pla | plp | txs => simp at h
  all_goals cases o <;> rfl

theorem tableEffect_flags_c
    (h : mn ∉ [.adc, .sbc, .cmp, .cpx, .cpy, .asl, .lsr, .rol, .ror, .clc, .sec, .plp]) :
    (tableEffect mn o s).flags.c = s.flags.c := by
  cases mn
  case adc | sbc | cmp | cpx | cpy | asl | lsr | rol | ror | clc | sec | plp => simp at h
  all_goals cases o <;> rfl

/-- Every mnemonic outside the list leaves both Z and N. -/
theorem tableEffect_flags_zn
    (h : mn ∉ [.lda, .ldx, .ldy, .tax, .tay, .txa, .tya, .tsx, .pla, .adc, .sbc, .and, .ora, .eor,
      .bit, .cmp, .cpx, .cpy, .inc, .dec, .asl, .lsr, .rol, .ror, .plp, .inx, .iny, .dex, .dey]) :
    (tableEffect mn o s).flags.z = s.flags.z ∧ (tableEffect mn o s).flags.n = s.flags.n := by
  cases mn
  case lda | ldx | ldy | tax | tay | txa | tya | tsx | pla | adc | sbc | and | ora | eor | bit | cmp | cpx
      | cpy | inc | dec | asl | lsr | rol | ror | plp | inx | iny | dex | dey => simp at h
  all_goals cases o <;> exact ⟨rfl, rfl⟩

@[simp] theorem tableEffect_flags_i : (tableEffect mn o s).flags.i = s.flags.i := by
  cases o <;> cases mn <;> rfl

theorem tableEffect_flags_d (h : mn ∉ [.cld, .sed, .plp]) :
    (tableEffect mn o s).flags.d = s.flags.d := by
  cases mn
  case cld | sed | plp => simp at h
  all_goals cases o <;> rfl

theorem tableEffect_flags_v (h : mn ∉ [.adc, .sbc, .bit, .clv, .plp]) :
    (tableEffect mn o s).flags.v = s.flags.v := by
  cases mn
  case adc | sbc | bit | clv | plp => simp at h
  all_goals cases o <;> rfl

/-- What each executor stages in the latch (R155, R156, R165). -/
theorem tableEffect_pend :
    (tableEffect mn o s).pend =
      if mn = .cli then some false
      else if mn = .sei then some true
      else if mn = .plp then some (s.top.getLsbD s.config.flagPos.i)
      else s.pend := by
  cases o <;> cases mn <;> rfl

theorem tableEffect_pend_other (h : mn ∉ [.cli, .sei, .plp]) : (tableEffect mn o s).pend = s.pend := by
  simp only [List.mem_cons, List.not_mem_nil, or_false, not_or] at h
  simp [tableEffect_pend, h]

end

/-! Each control transfer writes `pc` and `CYC`, the stack pointer where it uses the stack, and flags only
in the trap entry and its return (R170 to R184). -/

section
variable (mn : Mnemonic) (o : Operand) (s : State)

@[simp] theorem controlEffect_a : (controlEffect mn o s).a = s.a := by
  cases mn
  case bcc | bcs | beq | bmi | bne | bpl | bvc | bvs => exact branchEffect_a ..
  case rti => simp only [controlEffect, returnFromTrap_eq]
  all_goals cases o <;> rfl

@[simp] theorem controlEffect_x : (controlEffect mn o s).x = s.x := by
  cases mn
  case bcc | bcs | beq | bmi | bne | bpl | bvc | bvs => exact branchEffect_x ..
  case rti => simp only [controlEffect, returnFromTrap_eq]
  all_goals cases o <;> rfl

@[simp] theorem controlEffect_y : (controlEffect mn o s).y = s.y := by
  cases mn
  case bcc | bcs | beq | bmi | bne | bpl | bvc | bvs => exact branchEffect_y ..
  case rti => simp only [controlEffect, returnFromTrap_eq]
  all_goals cases o <;> rfl

@[simp] theorem controlEffect_pend : (controlEffect mn o s).pend = s.pend := by
  cases mn
  case bcc | bcs | beq | bmi | bne | bpl | bvc | bvs => exact branchEffect_pend ..
  case rti => simp only [controlEffect, returnFromTrap_eq]
  all_goals cases o <;> rfl

variable {mn}

theorem controlEffect_sp (h : mn ∉ [.jsr, .rts, .brk, .rti]) : (controlEffect mn o s).sp = s.sp := by
  cases mn
  case jsr | rts | brk | rti => simp at h
  case bcc | bcs | beq | bmi | bne | bpl | bvc | bvs => exact branchEffect_sp ..
  all_goals cases o <;> rfl

/-- Only RTI writes a flag other than `I`, which BRK sets. -/
theorem controlEffect_flags (h : mn ∉ [.rti]) :
    (controlEffect mn o s).flags = { s.flags with i := decide (mn = .brk) || s.flags.i } := by
  cases mn
  case rti => simp at h
  case bcc | bcs | beq | bmi | bne | bpl | bvc | bvs => exact branchEffect_flags ..
  all_goals cases o <;> rfl

end

/-! The apply step writes nothing the resolver reads. -/

@[simp] theorem operandCrossed_entered (o : Operand) (op : Byte) (s : State) :
    operandCrossed o (entered op s) = operandCrossed o s := by
  cases o
  case mem m => cases m <;> simp [operandCrossed, pageCrossed, State.zpPointer, State.load]
  all_goals rfl

@[simp] theorem entered_top (op : Byte) (s : State) : (entered op s).top = s.top := by
  simp [State.top_eq]

/-! What a completed step is, by the row of the byte at `pc` (R60, R70). -/

/-- A completed step is the executor and the end of a table-dispatched opcode, or a control transfer, from
the state the apply step leaves; and no byte stays in progress. -/
theorem step_next_cases {s t : State} {row : TableRow}
    (hr : s.config.table.rowAt (s.load s.pc) = some row) (h : step s = .next t) :
    (t = (endTable row.mnem row.mode (operandCrossed (rowOperand row (fetch s)) (entered (s.load s.pc) s))
        (tableEffect row.mnem (rowOperand row (fetch s)) (entered (s.load s.pc) s))).setOp none ∧
      (row.mnem.cls row.mode = .tbl ∨ row.mnem.cls row.mode = .opt)) ∨
    (t = (controlEffect row.mnem (rowOperand row (fetch s)) (entered (s.load s.pc) s)).setOp none ∧
      row.mnem.cls row.mode = .cf) := by
  obtain ⟨row', u, hr', hu, rfl⟩ := step_next h
  obtain rfl := Option.some.inj (hr.symm.trans hr')
  obtain ⟨rfl, hc⟩ | ⟨rfl, hc⟩ := pairingOutcome_next hu
  · rw [rowOperand_mode] at hc ⊢
    exact .inl ⟨rfl, hc.imp_right And.left⟩
  · exact .inr ⟨rfl, by rwa [rowOperand_mode] at hc⟩

/-! What a step charges (R16, R89, R90). -/

theorem laterBy_eq (k : Nat) (s : State) : laterBy k s = addCycles s.config.cycleWidth s.cyc k := by
  unfold laterBy addCycles
  cases s.config.cycleWidth <;> rfl

theorem branchEffect_rel_cyc (cond : Bool) (off : Byte) (s : State) :
    ∃ k, 2 ≤ k ∧ k ≤ 4 ∧
      (branchEffect cond (.rel off) s).cyc = addCycles s.config.cycleWidth s.cyc k := by
  cases cond
  · exact ⟨2, by omega, by omega, rfl⟩
  · refine ⟨if hi8 (s.pc + 2#16 + sext16 off) = hi8 s.pc then 3 else 4, ?_, ?_, rfl⟩ <;> split <;> omega

/-- A control transfer charges 2 to 7: a branch 2 to 4, JMP 3, BRK 7 and the others 6 (R170 to R184). -/
theorem controlEffect_cyc {mn : Mnemonic} {md : Mode} (hc : mn.cls md = .cf) (ht : mn.takes md = true)
    (b c : Byte) (s : State) :
    ∃ k, 2 ≤ k ∧ k ≤ 7 ∧ (controlEffect mn (Operand.assemble mn md b c) s).cyc =
      addCycles s.config.cycleWidth s.cyc k := by
  have branch (cond : Bool) : ∃ k, 2 ≤ k ∧ k ≤ 7 ∧
      (branchEffect cond (.rel b) s).cyc = addCycles s.config.cycleWidth s.cyc k := by
    obtain ⟨k, h2, h4, hk⟩ := branchEffect_rel_cyc cond b s
    exact ⟨k, h2, by omega, hk⟩
  obtain ⟨hm, ho⟩ | ⟨hm, ho⟩ | ⟨hm, ho⟩ := cf_operand hc ht b c <;> rw [ho] <;>
    simp only [List.mem_cons, List.not_mem_nil, or_false] at hm
  · obtain rfl | rfl | rfl := hm
    · exact ⟨6, by omega, by omega, rfl⟩
    · exact ⟨7, by omega, by omega, rfl⟩
    · exact ⟨6, by omega, by omega, rfl⟩
  · obtain rfl | rfl | rfl | rfl | rfl | rfl | rfl | rfl := hm <;> exact branch _
  · obtain rfl | rfl := hm
    · exact ⟨3, by omega, by omega, rfl⟩
    · exact ⟨6, by omega, by omega, rfl⟩

/-- The published costs of the table-dispatched opcodes, with the page-crossing cycle (R53). -/
theorem publishedTable_cycles : ∀ row ∈ publishedTable,
    row.mnem.cls row.mode = .tbl ∨ row.mnem.cls row.mode = .opt →
      2 ≤ row.cyc ∧ row.cyc + row.pcs.toNat ≤ 7 := by
  decide +kernel

/-- What a completed step of a table-dispatched opcode charges, and where it leaves `pc` (R89, R90). -/
theorem step_next_table {s t : State} {row : TableRow} (hr : s.config.table.rowAt (s.load s.pc) = some row)
    (hc : row.mnem.cls row.mode = .tbl ∨ row.mnem.cls row.mode = .opt) (h : step s = .next t) :
    t.cyc = laterBy (row.cyc +
      if row.pcs = true ∧ operandCrossed (rowOperand row (fetch s)) s = true then 1 else 0) s ∧
    t.pc = s.pc + BitVec.ofNat 16 row.mode.size := by
  obtain ⟨rfl, -⟩ | ⟨-, hcf⟩ := step_next_cases hr h
  · refine ⟨?_, by simp⟩
    simp [laterBy_eq, hr, rowCycles, rowSensitive, Bool.toNat, Bool.cond_eq_ite]
  · simp [hcf] at hc

/-! No meaning reads the byte left in progress before it, nor the cycle counter. -/

section
variable (s : State)

theorem applyPending_setOp (op : Option Byte) :
    applyPending (s.setOp op) = (applyPending s).setOp op := by
  unfold applyPending
  rw [State.setOp_pend]
  cases s.pend <;> rfl

theorem execute_setOp (ins : Record) (op : Option Byte) : execute ins (s.setOp op) = execute ins s := by
  unfold execute
  rw [applyPending_setOp, State.setOp_setOp]

theorem applyPending_charge (k : Nat) :
    applyPending (s.charge k) = (applyPending s).charge k := by
  unfold applyPending
  rw [State.charge_pend]
  cases s.pend <;> rfl

variable (mn : Mnemonic) (o : Operand) (k : Nat)

theorem entered_charge (op : Byte) : entered op (s.charge k) = (entered op s).charge k := by
  rw [entered, applyPending_charge]
  rfl

theorem tableEffect_charge : tableEffect mn o (s.charge k) = (tableEffect mn o s).charge k := by
  cases o <;> cases mn <;> rfl

/-- Charging commutes, whatever the width of the counter. -/
theorem State.charge_comm (j : Nat) : (s.charge k).charge j = (s.charge j).charge k := by
  simp only [State.charge, addCycles_comm _ _ k j]

theorem endTable_charge (md : Mode) (crossed : Bool) :
    endTable mn md crossed (s.charge k) = (endTable mn md crossed s).charge k :=
  congrArg (State.setPc · _) (s.charge_comm k _)

theorem branchEffect_charge (cond : Bool) :
    branchEffect cond o (s.charge k) = (branchEffect cond o s).charge k := by
  cases o
  case rel off =>
    cases cond <;> exact congrArg (State.setPc · _) (s.charge_comm k _)
  all_goals rfl

theorem controlEffect_charge : controlEffect mn o (s.charge k) = (controlEffect mn o s).charge k := by
  cases mn
  case bcc | bcs | beq | bmi | bne | bpl | bvc | bvs => exact branchEffect_charge ..
  case jmp =>
    cases o
    case target a => exact State.charge_comm (s.setPc a) k 3
    all_goals rfl
  case jsr =>
    cases o
    case target a => exact State.charge_comm ((s.push16 (s.pc + 2#16)).setPc a) k 6
    all_goals rfl
  case rts => exact State.charge_comm (s.popped16.setPc (s.top16 + 1#16)) k 6
  case brk => simp only [controlEffect, takeTrap_eq, State.charge, addCycles_comm _ _ k 7]
  case rti => simp only [controlEffect, returnFromTrap_eq, State.charge, addCycles_comm _ _ k 6]
  all_goals rfl

@[simp] theorem operandCrossed_charge : operandCrossed o (s.charge k) = operandCrossed o s := by
  cases o <;> rfl

theorem pairingOutcome_charge :
    pairingOutcome mn o (s.charge k) = mapNext (State.charge · k) (pairingOutcome mn o s) := by
  unfold pairingOutcome
  rw [tableEffect_charge, controlEffect_charge, operandCrossed_charge, endTable_charge,
    State.charge_config]
  cases mn.cls o.mode
  case opt => cases s.config.indexIncdec <;> rfl
  all_goals rfl

theorem endTransaction_mapNext_charge (r : Result) :
    endTransaction (mapNext (State.charge · k) r) = mapNext (State.charge · k) (endTransaction r) := by
  cases r <;> rfl

theorem step_charge : step (s.charge k) = mapNext (State.charge · k) (step s) := by
  cases hr : s.config.table.rowAt (s.load s.pc) with
  | none =>
    rw [step_of_rowAt_none hr, step_of_rowAt_none (s := s.charge k) hr]
    rfl
  | some row =>
    rw [step_of_rowAt hr, step_of_rowAt (s := s.charge k) hr, ← endTransaction_mapNext_charge,
      ← pairingOutcome_charge, ← entered_charge]
    rfl

end

end Sys2Proof.Machine

namespace Sys2Proof.Proofs

open Sys2Proof Sys2Proof.Machine Sys2Proof.Claims

/-- A mnemonic outside a list of writers is outside every part of it. -/
theorem notMem_of_subset {mn : Mnemonic} {l l' : List Mnemonic} (h : mn ∉ l')
    (hs : l ⊆ l' := by decide) : mn ∉ l := fun hm => h (hs hm)

/-- Settles O58: a next state of `exec` is that of an executor and the epilogue, or of a control transfer,
and each of these has its frame. -/
theorem registersChangeOnlyByTheirWriters : Obligations.RegistersChangeOnlyByTheirWriters := by
  intro i s t h
  obtain ⟨rfl, -⟩ | ⟨rfl, -⟩ := exec_next h
  · exact ⟨tableEffect_a i.takes_mode, tableEffect_x, tableEffect_y,
      fun hm => tableEffect_sp (notMem_of_subset hm), tableEffect_op .., tableEffect_config ..⟩
  · exact ⟨fun _ _ => controlEffect_a .., fun _ => controlEffect_x .., fun _ => controlEffect_y ..,
      fun hm => controlEffect_sp _ _ (notMem_of_subset hm), controlEffect_op ..,
      controlEffect_config ..⟩

/-- Settles O59: the executors have their frames, and of the control transfers only RTI writes more flags
than `I`. -/
theorem flagsChangeOnlyByTheirWriters : Obligations.FlagsChangeOnlyByTheirWriters := by
  intro i s t h
  obtain ⟨rfl, -⟩ | ⟨rfl, -⟩ := exec_next h
  · exact ⟨fun hm => tableEffect_flags_c (notMem_of_subset hm),
      fun hm => tableEffect_flags_zn (notMem_of_subset hm), fun _ => tableEffect_flags_i,
      fun hm => tableEffect_flags_d (notMem_of_subset hm),
      fun hm => tableEffect_flags_v (notMem_of_subset hm), fun hm => tableEffect_pend_other hm⟩
  · have hf {l : List Mnemonic} (hm : i.mnem ∉ l) (hl : [.rti] ⊆ l := by decide) :=
      controlEffect_flags i.operand s (notMem_of_subset hm hl)
    refine ⟨fun hm => by rw [hf hm], fun hm => by simp [hf hm], fun hm => ?_,
      fun hm => by rw [hf hm], fun hm => by rw [hf hm], fun _ => controlEffect_pend ..⟩
    have hb : i.mnem ≠ .brk := fun e => hm (by simp [e])
    simp [hf hm, hb]

/-- Settles O11: the apply step empties the latch before the instruction runs, an executor then leaves in it
what it stages, and a control transfer stages nothing. -/
theorem latchHoldsOnlyWhatWasStaged : Obligations.LatchHoldsOnlyWhatWasStaged := by
  intro s t row hr h
  obtain ⟨rfl, -⟩ | ⟨rfl, hc⟩ := step_next_cases hr h
  · simp [tableEffect_pend, State.top_eq, inStack]
  · have hm := ((cls_cf_iff _ _).1 hc).1
    have hn : row.mnem ≠ .cli ∧ row.mnem ≠ .sei ∧ row.mnem ≠ .plp := by
      refine ⟨?_, ?_, ?_⟩ <;> intro e <;> simp [e] at hm
    simp [hn]

/-- Settles O16: with the published table the row's cost is in range for a table-dispatched opcode, and the
cost its own rule gives for a control transfer. -/
theorem cycleCounterRisesByTwoToSeven : Obligations.CycleCounterRisesByTwoToSeven := by
  refine ⟨fun _ _ _ => step_next_table, fun s t ht h => ?_⟩
  obtain ⟨row, -, hr, -⟩ := step_next h
  obtain ⟨hm, -, hk⟩ := OpcodeTable.rowAt_some hr
  obtain ⟨-, hc⟩ | ⟨rfl, hc⟩ := step_next_cases hr h
  · obtain ⟨h2, h7⟩ := publishedTable_cycles row (ht ▸ hm) hc
    have hx : (if row.pcs = true ∧ operandCrossed (rowOperand row (fetch s)) s = true then 1 else 0) ≤
        row.pcs.toNat := by
      split
      · next hp => simp [hp.1]
      · exact Nat.zero_le _
    exact ⟨_, by omega, by omega, (step_next_table hr hc h).1⟩
  · obtain ⟨k, h2, h7, hk⟩ := controlEffect_cyc hc hk (fetch s).ob0 (fetch s).ob1 (entered (s.load s.pc) s)
    refine ⟨k, h2, h7, ?_⟩
    rw [laterBy_eq]
    simpa [rowOperand] using hk

/-- Settles O17: neither an executor nor a control transfer writes the parameters, and a transaction puts
its own opcode byte in place of the one it finds. -/
theorem stepKeepsConfig : Obligations.StepKeepsConfig := by
  refine ⟨fun s t h => ?_, fun s op => execute_setOp s (fetch s) op⟩
  obtain ⟨row, -, hr, -⟩ := step_next h
  obtain ⟨rfl, -⟩ | ⟨rfl, -⟩ := step_next_cases hr h <;> simp

/-- Settles O38: raising `CYC` is charging, which commutes with a step. -/
theorem nothingDependsOnCycleCount : Obligations.NothingDependsOnCycleCount := by
  intro s k
  simpa only [State.charge, ← laterBy_eq] using step_charge s k

/-- Settles O14: nothing is listed in memory after reset, and what nothing lists reads as `memInit`. -/
theorem resetMemoryReadsMemInit : Obligations.ResetMemoryReadsMemInit :=
  ⟨Memory.wf_nil, fun _ => rfl⟩

end Sys2Proof.Proofs

/-! SUPPORT. Memory: what each meaning keeps of it, and what the front-end fetches from it. -/

namespace Sys2Proof.Machine

open Sys2Proof Sys2Proof.Claims

/-! The canonical form (log entry 20). -/

theorem controlEffect_wf {mn : Mnemonic} {o : Operand} {s : State} (h : Memory.wf s.mem = true) :
    Memory.wf (controlEffect mn o s).mem = true := by
  cases mn
  case bcc | bcs | beq | bmi | bne | bpl | bvc | bvs => simpa only [controlEffect, branchEffect_mem] using h
  case jsr =>
    cases o
    case target a => exact push16_wf h
    all_goals exact h
  case brk => exact takeTrap_wf h
  case jmp => cases o <;> exact h
  all_goals exact h

/-! The bytes an instruction leaves alone (R33). -/

section
variable {mn : Mnemonic} {s : State} {b : Addr}

/-- Only the stores, the read-modify-write executors and the pushes write memory. -/
theorem tableEffect_mem {o : Operand}
    (h : mn ∉ [.sta, .stx, .sty, .asl, .lsr, .rol, .ror, .inc, .dec, .pha, .php]) :
    (tableEffect mn o s).mem = s.mem := by
  cases mn
  case sta | stx | sty | asl | lsr | rol | ror | inc | dec | pha | php => simp at h
  all_goals cases o <;> rfl

/-- Of the control transfers only JSR and BRK write memory. -/
theorem controlEffect_mem {o : Operand} (h : mn ∉ [.jsr, .brk]) :
    (controlEffect mn o s).mem = s.mem := by
  cases mn
  case jsr | brk => simp at h
  case bcc | bcs | beq | bmi | bne | bpl | bvc | bvs => exact branchEffect_mem ..
  all_goals cases o <;> rfl

/-- The pushing executors change no byte but the one at the stack pointer. -/
theorem tableEffect_push_load_other {o : Operand} (hm : mn ∈ [.pha, .php]) (h : b ≠ stackAddr s.sp) :
    (tableEffect mn o s).load b = s.load b := by
  simp only [List.mem_cons, List.not_mem_nil, or_false] at hm
  obtain rfl | rfl := hm <;> exact push_load_other h

theorem push16_load_other {w : Addr} (h0 : b ≠ stackAddr s.sp) (h1 : b ≠ stackAddr (s.sp - 1#8)) :
    (s.push16 w).load b = s.load b :=
  (push_load_other (s := s.push (hi8 w)) h1).trans (push_load_other h0)

theorem takeTrap_load_other (h0 : b ≠ stackAddr s.sp) (h1 : b ≠ stackAddr (s.sp - 1#8))
    (h2 : b ≠ stackAddr (s.sp - 2#8)) : (takeTrap s).load b = s.load b := by
  have h2' : b ≠ stackAddr (s.push16 (s.pc + 2#16)).sp := by
    rwa [State.push16_eq, show s.sp - 1#8 - 1#8 = s.sp - 2#8 from sub_sub ..]
  exact (push_load_other h2').trans (push16_load_other h0 h1)

theorem controlEffect_jsr_load_other {o : Operand} (h0 : b ≠ stackAddr s.sp)
    (h1 : b ≠ stackAddr (s.sp - 1#8)) : (controlEffect .jsr o s).load b = s.load b := by
  cases o
  case target a => exact push16_load_other h0 h1
  all_goals rfl

variable {i : Instr}

theorem tableEffect_load_of_notMem_storedAddrs (h : b ∉ storedAddrs i s) :
    (tableEffect i.mnem i.operand s).load b = s.load b := by
  by_cases hw : i.mnem ∈ [.sta, .stx, .sty, .asl, .lsr, .rol, .ror, .inc, .dec]
  · exact tableEffect_load_other hw
      (by simpa only [storedAddrs, if_pos hw, Option.mem_toList, Option.mem_def] using h)
  by_cases hp : i.mnem ∈ [.pha, .php]
  · exact tableEffect_push_load_other hp
      (by simpa only [storedAddrs, if_neg hw, if_pos hp, List.mem_singleton] using h)
  rw [State.load_eq, tableEffect_mem fun hm => (List.mem_append.1 hm).elim hw hp, State.load_eq]

theorem controlEffect_load_of_notMem_storedAddrs (h : b ∉ storedAddrs i s) :
    (controlEffect i.mnem i.operand s).load b = s.load b := by
  by_cases hj : i.mnem = .jsr
  · obtain ⟨h0, h1⟩ : b ≠ stackAddr s.sp ∧ b ≠ stackAddr (s.sp - 1#8) := by
      simpa [storedAddrs, hj] using h
    exact hj ▸ controlEffect_jsr_load_other h0 h1
  by_cases hk : i.mnem = .brk
  · obtain ⟨h0, h1, h2⟩ : b ≠ stackAddr s.sp ∧ b ≠ stackAddr (s.sp - 1#8) ∧
        b ≠ stackAddr (s.sp - 2#8) := by
      simpa [storedAddrs, hk] using h
    exact hk ▸ takeTrap_load_other h0 h1 h2
  rw [State.load_eq, controlEffect_mem (by simp [hj, hk]), State.load_eq]

end

/-! The record the front-end fetches (R60). -/

section
variable {t : OpcodeTable} {row : TableRow} {s : State} {i : Instr}

/-- A well-formed record of a byte the table has is assembled from its own bytes in memory order. -/
theorem Record.assemble_stream {r : Record} (hr : t.rowAt r.opCode = some row) (hw : r.wf t = true)
    {b1 b2 : Byte} (h1 : 1 < r.size → r.stream[1]? = some b1) (h2 : 2 < r.size → r.stream[2]? = some b2) :
    assemble t r.opCode b1 b2 = r := by
  obtain ⟨op, ob0, ob1, size⟩ := r
  simp only [Record.wf, Record.sizeOk, hr, Bool.and_eq_true, beq_iff_eq] at hw
  obtain ⟨rfl, hp⟩ := hw
  rw [assemble, OpcodeTable.lengthOf_of_rowAt hr]
  simp only [Record.stream] at h1 h2
  obtain hs | hs | hs := row.mode.size_cases <;> simp_all [Record.paddingOk]

@[simp] theorem Record.stream_zero (r : Record) : r.stream[0]? = some r.opCode := by
  unfold Record.stream
  split <;> rfl

/-- Where a well-formed record's bytes lie in memory from `pc` on, the front-end fetches the record. -/
theorem fetch_of_stored {r : Record} (hr : s.config.table.rowAt r.opCode = some row)
    (hw : r.wf s.config.table = true)
    (h : ∀ k, k < r.size → r.stream[k]? = some (s.load (s.pc + BitVec.ofNat 16 k))) : fetch s = r := by
  have hs : 0 < r.size := by
    simp only [Record.wf, Record.sizeOk, hr, Bool.and_eq_true, beq_iff_eq] at hw
    obtain ⟨e, -⟩ := hw
    obtain hz | hz | hz := row.mode.size_cases <;> omega
  have h0 : r.opCode = s.load s.pc := by simpa using h 0 hs
  unfold fetch
  rw [← h0]
  exact Record.assemble_stream hr hw (h 1) (h 2)

/-- A transaction on the record of an instruction the table has is the instruction's meaning, with no byte
in progress (R70). -/
theorem execute_encodeRecord (ho : s.config.table.ok = true) (hi : s.config.table.has i = true) :
    execute (encodeRecord s.config.table i) s = exec i ((applyPending s).setOp none) := by
  obtain ⟨row, hr⟩ := OpcodeTable.has_iff.1 hi
  obtain ⟨-, hn, hd⟩ := OpcodeTable.rowOf_some hr
  have ha := OpcodeTable.rowAt_of_rowOf ho hr
  rw [encodeRecord, OpcodeTable.opByte_of_rowOf hr, execute_of_decode (decodeRecord_record ha hn hd),
    exec_eq, exec_eq]
  exact endTransaction_pairingOutcome (row := row) (by rwa [applyPending_config])
    (by rw [applyPending_config]; exact hr)

end

end Sys2Proof.Machine

namespace Sys2Proof.Proofs

open Sys2Proof Sys2Proof.Machine Sys2Proof.Claims

/-- Settles O15: the apply step leaves memory alone, and each executor and each control transfer keeps its
canonical form. -/
theorem stepKeepsMemoryCanonical : Obligations.StepKeepsMemoryCanonical := by
  intro s t hs h
  have he : Memory.wf (entered (s.load s.pc) s).mem = true := by rwa [entered_mem]
  obtain ⟨row, -, hr, -⟩ := step_next h
  obtain ⟨rfl, -⟩ | ⟨rfl, -⟩ := step_next_cases hr h
  · exact tableEffect_wf he
  · exact controlEffect_wf he

/-- Settles O6: the front-end fetches the instruction's own record, and the transaction on that record is
the instruction's meaning. -/
theorem stepRunsStoredInstruction : Obligations.StepRunsStoredInstruction := by
  intro s i ht h
  obtain ⟨ho, hi⟩ : s.config.table.ok = true ∧ s.config.table.has i = true := by
    obtain e | h := ht
    · exact e ▸ ⟨publishedTable_ok, publishedTable_has i⟩
    · exact h
  obtain ⟨row, hr⟩ := OpcodeTable.has_iff.1 hi
  have ha : s.config.table.rowAt (encodeRecord s.config.table i).opCode = some row := by
    simpa only [encodeRecord, Instr.record, OpcodeTable.opByte_of_rowOf hr] using
      OpcodeTable.rowAt_of_rowOf ho hr
  have hf : fetch s = encodeRecord s.config.table i := fetch_of_stored ha (encodeRecord_wf ho hi) h
  rw [step, hf]
  exact execute_encodeRecord ho hi

/-- Settles O60: the executor or the control transfer writes only where the instruction stores, and the end
of a table-dispatched opcode writes no memory. -/
theorem memoryChangesOnlyWhereStored : Obligations.MemoryChangesOnlyWhereStored := by
  intro i s t h a ha
  obtain ⟨rfl, -⟩ | ⟨rfl, -⟩ := exec_next h
  · exact tableEffect_load_of_notMem_storedAddrs ha
  · exact controlEffect_load_of_notMem_storedAddrs ha

/-- Settles O18: a store is a write to memory at the address. -/
theorem readAfterWrite : Obligations.ReadAfterWrite := fun s a v =>
  ⟨s.load_store_same a v, fun _ hb => s.load_store_other v hb, _, s.store_eq a v⟩

end Sys2Proof.Proofs

/-! SUPPORT. Records, their bytes and the instructions they stand for; and the faults an opcode byte raises
by itself. -/

namespace Sys2Proof

open Sys2Proof.Machine

/-! The 26-bit packing (R51). -/

/-- The fields of a packed record, each at its bit position. -/
theorem Record.toNat_pack {r : Record} (h : r.size < 4) :
    r.pack.toNat = r.size * 2 ^ 24 + r.opCode.toNat * 2 ^ 16 + r.ob0.toNat * 2 ^ 8 + r.ob1.toNat := by
  have append {n : Nat} (x : BitVec n) (b : Byte) : (x ++ b).toNat = x.toNat * 2 ^ 8 + b.toNat := by
    rw [BitVec.toNat_append, ← Nat.shiftLeft_add_eq_or_of_lt b.isLt, Nat.shiftLeft_eq]
  have hs : (BitVec.ofNat 2 r.size).toNat = r.size := Nat.mod_eq_of_lt h
  rw [Record.pack, append, append, append, hs]
  omega

theorem unpackRecord_pack {r : Record} (h : r.size < 4) : unpackRecord r.pack = r := by
  obtain ⟨op, ob0, ob1, size⟩ := r
  have hp := Record.toNat_pack h
  dsimp only at h hp
  simp only [unpackRecord, Record.mk.injEq, ← BitVec.toNat_inj, BitVec.extractLsb'_toNat,
    Nat.shiftRight_eq_div_pow, hp]
  refine ⟨?_, ?_, ?_, ?_⟩ <;> omega

/-! Decoding bytes is decoding a record (R57, R60). -/

section
variable {t : OpcodeTable} {r : Record} {i : Instr} {row : TableRow}

theorem Record.wf_iff (hr : t.rowAt r.opCode = some row) :
    r.wf t = true ↔ r.size = row.mode.size ∧ r.paddingOk = true := by
  simp [Record.wf, Record.sizeOk, hr]

/-- Decoding a well-formed record's bytes, whatever follows them, is decoding the record. -/
theorem decode_stream (hr : t.rowAt r.opCode = some row) (hw : r.wf t = true) (rest : List Byte) :
    decode t (r.stream ++ rest) = (decodeRecord t r).map fun i => (i, rest) := by
  have hl := OpcodeTable.lengthOf_of_rowAt hr
  obtain ⟨hs, -⟩ := (Record.wf_iff hr).1 hw
  have ha {b1 b2 : Byte} := Record.assemble_stream (b1 := b1) (b2 := b2) hr hw
  obtain h | h | h := row.mode.size_cases <;> rw [h] at hl hs <;> simp only [Record.stream, hs] at ha ⊢
  · simp [decode, hl, ha (b1 := 0#8) (b2 := 0#8)]
  · simp [decode, hl, ha (b1 := r.ob0) (b2 := 0#8)]
  · simp [decode, hl, ha (b1 := r.ob1) (b2 := r.ob0)]

theorem OpcodeTable.lengthOf_cases (t : OpcodeTable) (op : Byte) :
    t.lengthOf op = 1 ∨ t.lengthOf op = 2 ∨ t.lengthOf op = 3 := by
  unfold OpcodeTable.lengthOf
  split
  · exact Mode.size_cases _
  · exact .inl rfl

/-- Decoding three bytes is decoding the record the front-end assembles of them. -/
theorem decode_three_bytes (t : OpcodeTable) (op b1 b2 : Byte) :
    (decode t [op, b1, b2]).map Prod.fst = decodeRecord t (assemble t op b1 b2) := by
  obtain h | h | h := t.lengthOf_cases op <;> simp only [decode, assemble, h] <;>
    cases decodeRecord t _ <;> rfl

/-! A record that decodes is its instruction's (R50, R52). -/

/-- A record that decodes is the one of its instruction under its own opcode byte. -/
theorem record_of_decodeRecord (h : decodeRecord t r = .ok i) : i.record r.opCode = r := by
  obtain ⟨row, hr, hw, -, hd, ho⟩ := decodeRecord_ok h
  obtain ⟨hsize, hp⟩ := (Record.wf_iff hr).1 hw
  obtain ⟨op, ob0, ob1, size⟩ := r
  obtain rfl : size = row.mode.size := hsize
  rw [Instr.record, ho, Operand.bytes_assemble, Instr.size, hd]
  obtain hs | hs | hs := i.mode.size_cases <;> simp_all [Record.paddingOk]

theorem decodeRecord_iff (ho : t.ok = true) :
    decodeRecord t r = .ok i ↔
      ∃ row ∈ t, row.mnem = i.mnem ∧ row.mode = i.mode ∧ i.record row.op = r := by
  constructor
  · intro h
    obtain ⟨row, hr, -, hn, hd, -⟩ := decodeRecord_ok h
    obtain ⟨hm, hop, -⟩ := OpcodeTable.rowAt_some hr
    exact ⟨row, hm, hn, hd, hop ▸ record_of_decodeRecord h⟩
  · rintro ⟨row, hm, hn, hd, rfl⟩
    exact decodeRecord_record (OpcodeTable.rowAt_of_mem ho hm (by rw [hn, hd, i.takes_mode])) hn hd

/-- The published table has one row for each instruction, so that its record is the only one (R53). -/
theorem decodeRecord_published_iff :
    decodeRecord publishedTable r = .ok i ↔ encodeRecord publishedTable i = r := by
  obtain ⟨row, hm, hn, hd, hr, hb, -⟩ := publishedTable_row i
  rw [decodeRecord_iff publishedTable_ok, encodeRecord, hb]
  constructor
  · rintro ⟨q, hq, hqn, hqd, rfl⟩
    have hrow : some q = some row := by rw [← (publishedTable_rows q hq).1, hqn, hqd, hr]
    rw [Option.some.inj hrow]
  · exact fun h => ⟨row, hm, hn, hd, h⟩

theorem has_of_decodeRecord (h : decodeRecord t r = .ok i) : t.has i = true := by
  obtain ⟨row, hr, -, hn, hd, -⟩ := decodeRecord_ok h
  exact OpcodeTable.has_of_mem (OpcodeTable.rowAt_some hr).1 hn hd

theorem decode_encode (ho : t.ok = true) (hi : t.has i = true) (rest : List Byte) :
    decode t (encode t i ++ rest) = .ok (i, rest) := by
  obtain ⟨row, hr⟩ := OpcodeTable.has_iff.1 hi
  obtain ⟨-, hn, hd⟩ := OpcodeTable.rowOf_some hr
  have ha : t.rowAt (t.opByte i) = some row := by
    rw [OpcodeTable.opByte_of_rowOf hr]
    exact OpcodeTable.rowAt_of_rowOf ho hr
  rw [encode, decode_stream (r := encodeRecord t i) ha (encodeRecord_wf ho hi), encodeRecord,
    decodeRecord_record ha hn hd]
  rfl

end

/-! The bytes of the published table that raise a fault by themselves (R54 to R56). -/

theorem publishedTable_rowAt_absent :
    ∀ op ∈ Claims.absentBytes, publishedTable.rowAt op = none := by
  decide +kernel

theorem publishedTable_rowAt_optional :
    ∀ op ∈ Claims.optionalBytes,
      ((publishedTable.rowAt op).map fun row => row.mnem.cls row.mode) = some .opt := by
  decide +kernel

end Sys2Proof

namespace Sys2Proof.Machine

open Sys2Proof Sys2Proof.Claims

/-! The faults (R190 to R192). -/

section
variable {mn : Mnemonic} {o : Operand} {s : State} {i : Instr}

theorem pairingOutcome_of_fault (hc : mn.cls o.mode = .fault) :
    pairingOutcome mn o s = .fault (.unsupportedAddressingMode (s.opByte mn o.mode)) := by
  simp [pairingOutcome, hc]

theorem pairingOutcome_of_opt (hc : mn.cls o.mode = .opt) (hx : s.config.indexIncdec = false) :
    pairingOutcome mn o s = .fault (.unknownOpcode (s.opByte mn o.mode)) := by
  simp [pairingOutcome, hc, hx]

theorem cls_of_mem_indexIncdec (h : mn ∈ [.inx, .iny, .dex, .dey]) (md : Mode) : mn.cls md = .opt := by
  simp only [List.mem_cons, List.not_mem_nil, or_false] at h
  obtain rfl | rfl | rfl | rfl := h <;> rfl

theorem exec_jmpInd (a : Addr) (s : State) :
    exec (.jmpInd a) s = .fault (.unsupportedAddressingMode
      (s.opByte (Instr.jmpInd a).mnem (Instr.jmpInd a).mode)) :=
  (exec_eq _ _).trans (pairingOutcome_of_fault rfl)

theorem exec_of_mem_indexIncdec (hm : i.mnem ∈ [.inx, .iny, .dex, .dey])
    (hx : s.config.indexIncdec = false) :
    exec i s = .fault (.unknownOpcode (s.opByte i.mnem i.mode)) :=
  (exec_eq _ _).trans (pairingOutcome_of_opt (cls_of_mem_indexIncdec hm _) hx)

end

section
variable {ins : Record} {s : State} {row : TableRow}

theorem execute_of_not_wf (hr : s.config.table.rowAt ins.opCode = some row)
    (hw : ins.wf s.config.table = false) {f : Fault} (hf : opcodeFault s.config ins.opCode = some f) :
    execute ins s = .fault f := by
  simp [execute, decodeRecord, hr, hw, hf]

/-- A fault of the opcode byte is raised whatever the record's other fields and the state are (R191, R192):
a well-formed record raises it in its row's meaning, an ill-formed one at the interface. -/
theorem execute_of_opcodeFault {f : Fault} (hf : opcodeFault s.config ins.opCode = some f) :
    execute ins s = .fault f := by
  cases hr : s.config.table.rowAt ins.opCode with
  | none =>
    rw [execute_of_rowAt_none hr]
    simpa [opcodeFault, hr] using hf
  | some row =>
    cases hw : ins.wf s.config.table with
    | false => exact execute_of_not_wf hr hw hf
    | true =>
      have hb := State.opByte_of_some (entered_op ins.opCode s) row.mnem row.mode
      rw [execute_of_rowAt hr hw]
      simp only [opcodeFault, hr] at hf
      cases hc : row.mnem.cls row.mode <;> simp only [hc] at hf
      case tbl | cf => cases hf
      case fault =>
        obtain rfl := Option.some.inj hf
        rw [pairingOutcome_of_fault (by rwa [rowOperand_mode]), rowOperand_mode, hb]
        rfl
      case opt =>
        obtain ⟨hx, rfl⟩ : s.config.indexIncdec = false ∧ .unknownOpcode ins.opCode = f := by
          simpa using hf
        rw [pairingOutcome_of_opt (by rwa [rowOperand_mode]) (by rwa [entered_config]), rowOperand_mode, hb]
        rfl

end

/-! A transaction in the words of the statements. -/

theorem endTransaction_eq (r : Result) : endTransaction r = mapNext (withOp none) r := by
  cases r <;> rfl

/-- A transaction on a record of a pairing that R53 does not list runs `execPairing` with the record's
opcode byte in progress. -/
theorem execute_of_unlisted {ins : Record} {s : State} {mn : Mnemonic} {o : Operand}
    (h : decodeRecord s.config.table ins = .error (.unlisted mn o)) :
    execute ins s = endTransaction (execPairing mn o (entered ins.opCode s)) := by
  simp [execute, entered, h]

@[simp] theorem fetch_opCode (s : State) : (fetch s).opCode = s.load s.pc := assemble_opCode _ _

/-- What the bytes at `pc` decode to is what the record fetched there does (R60). -/
theorem decode_at_pc (s : State) :
    (decode s.config.table [s.load s.pc, s.load (s.pc + 1#16), s.load (s.pc + 2#16)]).map Prod.fst =
      decodeRecord s.config.table (fetch s) := decode_three_bytes ..

/-- On the table's own instructions `execPairing` is `exec` (R70). -/
theorem exec_eq_execPairing {i : Instr} (hc : i.cls = .tbl ∨ i.cls = .opt) (s : State) :
    exec i s = execPairing i.mnem i.operand s := by
  have h := execPairing_eq hc i.takes_mode i.operand.bytes.1 i.operand.bytes.2 s
  rw [i.assemble_bytes] at h
  rw [h, exec_eq]

end Sys2Proof.Machine

namespace Sys2Proof.Proofs

open Sys2Proof Sys2Proof.Machine Sys2Proof.Claims

/-- Settles O1: decoding an instruction's bytes is decoding its record, and its record is well formed under
the row of its opcode byte. -/
theorem decodeOfEncodeIsIdentity : Obligations.DecodeOfEncodeIsIdentity :=
  ⟨fun i => decode_encode publishedTable_ok (publishedTable_has i), fun _ _ rest ho hi =>
    decode_encode ho hi rest⟩

/-- Settles O2: a record that decodes is its instruction's under its own opcode byte, and the published
table gives an instruction one byte only. -/
theorem recordDecodesExactlyItsInstruction : Obligations.RecordDecodesExactlyItsInstruction :=
  ⟨fun _ _ => decodeRecord_published_iff, fun _ _ _ ho => decodeRecord_iff ho⟩

/-- Settles O3: the packed word is the sum of the fields at their places, from which each field is read. -/
theorem recordPackingKeepsFields : Obligations.RecordPackingKeepsFields := fun _ h =>
  ⟨unpackRecord_pack h, Record.toNat_pack h⟩

/-- Settles O4: the decoder evaluates on each of the words. -/
theorem specWordsDecode : Obligations.SpecWordsDecode :=
  ⟨rfl, rfl, rfl, rfl, rfl, rfl, rfl, rfl, rfl, rfl, rfl⟩

/-- Settles O5: the bytes at `pc` decode as the record fetched there does, and where that is the record the
table encodes the instruction with, the transaction is the one with no byte in progress. -/
theorem stepRunsDecodedInstruction : Obligations.StepRunsDecodedInstruction := by
  refine ⟨fun s i rest h => ?_, fun s i rest h ht => ?_, fun s mn o h => ?_,
    fun i s hc => exec_eq_execPairing hc s⟩
  · have hd : decodeRecord s.config.table (fetch s) = .ok i := by rw [← decode_at_pc, h]; rfl
    rw [step, execute_of_decode hd, fetch_opCode, endTransaction_eq]
    rfl
  · have hd : decodeRecord s.config.table (fetch s) = .ok i := by rw [← decode_at_pc, h]; rfl
    obtain ⟨ho, hf⟩ : s.config.table.ok = true ∧ encodeRecord s.config.table i = fetch s := by
      obtain e | ⟨ho, hb⟩ := ht
      · rw [e] at hd ⊢
        exact ⟨publishedTable_ok, decodeRecord_published_iff.1 hd⟩
      · rw [encodeRecord, hb, ← fetch_opCode]
        exact ⟨ho, record_of_decodeRecord hd⟩
    rw [step, ← hf]
    exact execute_encodeRecord ho (has_of_decodeRecord hd)
  · have hd : decodeRecord s.config.table (fetch s) = .error (.unlisted mn o) := by
      rw [← decode_at_pc, h]; rfl
    rw [step, execute_of_unlisted hd, fetch_opCode, endTransaction_eq]
    rfl

/-- Settles O7: a byte without a row is a fault whatever the state, and one of the optional rows is when
`INDEX_INCDEC` is false. -/
theorem absentOpcodeRaisesUnknownOpcode : Obligations.AbsentOpcodeRaisesUnknownOpcode := by
  refine ⟨fun ins s ht h => ?_, fun ins s h => execute_of_rowAt_none (OpcodeTable.rowAt_none.2 h)⟩
  obtain hm | ⟨hm, hx⟩ := h
  · exact execute_of_rowAt_none (ht ▸ publishedTable_rowAt_absent _ hm)
  · obtain ⟨row, hr, hc⟩ := Option.map_eq_some_iff.1 (publishedTable_rowAt_optional _ hm)
    exact execute_of_opcodeFault (by simp [opcodeFault, ht, hr, hc, hx])

/-- Settles O8: JMP indirect is of the faulting class, and so is the published row of `0x6C`. -/
theorem jmpIndirectRaisesUnsupportedMode : Obligations.JmpIndirectRaisesUnsupportedMode := by
  refine ⟨fun a s op h => ?_, fun a s h => ?_, fun _ => rfl, fun ins s ht h => ?_⟩
  · rw [exec_jmpInd, State.opByte_of_some h]
  · rw [exec_jmpInd, State.opByte_of_none h]
  · refine execute_of_opcodeFault ?_
    rw [opcodeFault, ht, h]
    rfl

/-- Settles O33: the four are of the optional class, which the parameter leaves out. -/
theorem indexIncDecWhenAbsent : Obligations.IndexIncDecWhenAbsent := by
  refine ⟨fun s i hm hx => ⟨fun op h => ?_, fun h => ?_⟩, rfl, rfl, rfl, rfl⟩
  · rw [exec_of_mem_indexIncdec hm hx, State.opByte_of_some h]
  · rw [exec_of_mem_indexIncdec hm hx, State.opByte_of_none h]

end Sys2Proof.Proofs

/-! SUPPORT. The operand resolver: effective addresses as numbers, page crossing as a carry; and the apply
step run before a transaction's own. -/

namespace Sys2Proof.Machine

open Sys2Proof

/-! Addresses as numbers (R31, R32, R52). -/

/-- The bytes a 16-bit operand is encoded in, high byte first, are its digits in base 256. -/
theorem hi8_mul_add_lo8 (w : Addr) : (hi8 w).toNat * 256 + (lo8 w).toNat = w.toNat := by
  rw [hi8_toNat, lo8_toNat, Nat.div_add_mod']

theorem add_zext16_toNat (w : Addr) (b : Byte) :
    (w + zext16 b).toNat = (w.toNat + b.toNat) % 65536 := by
  rw [BitVec.toNat_add, zext16_toNat]

/-- A pointer in the zero page takes its high byte from the next address of that page. -/
theorem State.zpPointer_toNat (s : State) (p : Byte) :
    (s.zpPointer p).toNat =
      (s.mem.read ((p.toNat + 1) % 256)).toNat * 256 + (s.mem.read p.toNat).toNat := by
  simp [State.zpPointer, State.load, BitVec.toNat_add]

/-! Page crossing (R88). -/

/-- A page is crossed where the base and its sum with the index differ in the high byte. -/
theorem crosses_eq (base : Addr) (index : Byte) :
    crosses base index = decide (base.toNat / 256 ≠ (base + zext16 index).toNat / 256) := by
  rw [Bool.eq_iff_iff, crosses, bne_iff_ne, decide_eq_true_iff, ne_eq, ← BitVec.toNat_inj, hi8_toNat,
    hi8_toNat]

theorem crosses_iff_high (base : Addr) (index : Byte) :
    crosses base index = true ↔ (base + zext16 index).toNat / 256 ≠ base.toNat / 256 := by
  rw [crosses_eq, decide_eq_true_iff, ne_comm]

/-- The high byte changes exactly when the low bytes carry: the sum of a byte carries at most 1, and where
that wraps the address the high byte goes from 255 to 0. -/
theorem crosses_iff_carry (base : Addr) (index : Byte) :
    crosses base index = true ↔ base.toNat % 256 + index.toNat > 255 := by
  have hb := base.isLt
  have hi := index.isLt
  rw [crosses_iff_high, add_zext16_toNat]
  omega

/-! The operand of a record that decodes (R75, R77 to R86). -/

/-- The operand bytes of a record that decodes are those of its instruction's operand. -/
theorem bytes_of_decodeRecord {t : OpcodeTable} {r : Record} {i : Instr}
    (h : decodeRecord t r = .ok i) : r.ob0 = i.operand.bytes.1 ∧ r.ob1 = i.operand.bytes.2 := by
  rw [← record_of_decodeRecord h]
  exact ⟨rfl, rfl⟩

/-- Only the accumulator operand is of accumulator mode. -/
theorem operand_eq_acc_of_mode {o : Operand} (h : o.mode = .acc) : o = .acc := by
  cases o
  case acc => rfl
  case mem m => cases m <;> cases h
  all_goals cases h

/-- Only the immediate operands are of immediate mode. -/
theorem operand_eq_imm_of_mode {o : Operand} (h : o.mode = .imm) : ∃ v, o = .imm v := by
  cases o
  case imm v => exact ⟨v, rfl⟩
  case mem m => cases m <;> cases h
  all_goals cases h

/-- Only the memory operands have an address, the effective address of their mode. -/
theorem operandAddr_eq_some {o : Operand} {s : State} {ea : Addr} :
    operandAddr o s = some ea ↔ ∃ m, o = .mem m ∧ effectiveAddr m s = ea := by
  cases o <;> simp [operandAddr]

/-- The address a jump operand holds is assembled from its two bytes (R82). -/
theorem jumpOperand_toNat {o : Operand} {a : Addr} (h : o = .target a ∨ o = .ind a) :
    a.toNat = o.bytes.1.toNat * 256 + o.bytes.2.toNat := by
  obtain rfl | rfl := h <;> exact (hi8_mul_add_lo8 a).symm

/-! The apply step is done once (R71). -/

@[simp] theorem applyPending_applyPending (s : State) : applyPending (applyPending s) = applyPending s :=
  applyPending_none (applyPending_pend s)

/-- A transaction runs its own apply step first, which finds nothing to do after an earlier one. -/
theorem execute_applyPending (ins : Record) (s : State) : execute ins (applyPending s) = execute ins s := by
  rw [execute, applyPending_applyPending, execute]

end Sys2Proof.Machine

namespace Sys2Proof.Proofs

open Sys2Proof Sys2Proof.Machine Sys2Proof.Claims

/-- Settles O19: the record's operand bytes are those of the operand, so that each form of operand is its
own case; the sums and pointers of the memory modes are read as numbers. -/
theorem effectiveAddressOfEachMode : Obligations.EffectiveAddressOfEachMode := by
  intro r i s h
  obtain ⟨h0, h1⟩ := bytes_of_decodeRecord h
  simp only [h0, h1, Instr.mode]
  generalize i.operand = o
  refine ⟨fun hm => ?acc, fun hm => ?imm, fun a ha => jumpOperand_toNat ha, fun ea hea => ?mem⟩
  case acc =>
    obtain rfl := operand_eq_acc_of_mode hm
    exact ⟨rfl, rfl⟩
  case imm =>
    obtain ⟨v, rfl⟩ := operand_eq_imm_of_mode hm
    exact ⟨rfl, rfl⟩
  case mem =>
    obtain ⟨m, rfl, rfl⟩ := operandAddr_eq_some.1 hea
    refine ⟨rfl, ?_⟩
    cases m <;>
      simp [Operand.mode, Operand.bytes, operandCrossed, pageCrossed, effectiveAddr, Nat.div_add_mod',
        State.zpPointer_toNat, crosses_eq]

/-- Settles O20: the two readings of a crossing, at the base address of each indexed mode. -/
theorem pageCrossIsCarryIntoHighByte : Obligations.PageCrossIsCarryIntoHighByte := by
  intro s a d
  have hlow := (s.mem.read d.toNat).isLt
  have hp := s.zpPointer_toNat d
  have hpl : (s.zpPointer d).toNat % 256 = (s.mem.read d.toNat).toNat := by omega
  have hph : (s.zpPointer d).toNat / 256 = (s.mem.read ((d.toNat + 1) % 256)).toNat := by omega
  refine ⟨crosses_iff_carry a s.x, crosses_iff_carry a s.y, ?_, crosses_iff_high a s.x,
    crosses_iff_high a s.y, ?_, rfl, rfl, rfl, rfl, rfl⟩
  · exact hpl ▸ crosses_iff_carry (s.zpPointer d) s.y
  · exact hph ▸ crosses_iff_high (s.zpPointer d) s.y

/-- Settles O10: the apply step is what R71 says, and doing it before a transaction leaves its own nothing
to do. -/
theorem applyStepComesFirst : Obligations.ApplyStepComesFirst :=
  ⟨fun _ _ => applyPending_some, fun _ => applyPending_none, fun ins s => (execute_applyPending ins s).symm⟩

/-- Settles O21: an instruction's byte and sensitivity stand in one row of the published table, and the rows
marked are those of the 23 bytes. -/
theorem pageSensitiveOpcodes : Obligations.PageSensitiveOpcodes := by
  intro i
  obtain ⟨row, hm, -, -, -, hb, -, hs⟩ := publishedTable_row i
  rw [hs, hb]
  clear hb hs
  revert row
  decide +kernel

end Sys2Proof.Proofs

/-! SUPPORT. The forms of a mnemonic as the rows of the published table, and a table-dispatched instruction
by the kind of its executor. -/

namespace Sys2Proof.Machine

open Sys2Proof Sys2Proof.Claims

/-! The forms of a mnemonic (R53). -/

/-- The opcode byte, mode, base cost and page-cross sensitivity of each published row of a mnemonic. -/
def publishedForms (mn : Mnemonic) : List (Byte × Mode × Nat × Bool) :=
  (publishedTable.filter fun row => row.mnem = mn).map fun row => (row.op, row.mode, row.cyc, row.pcs)

theorem mem_publishedForms {mn : Mnemonic} {f : Byte × Mode × Nat × Bool} :
    f ∈ publishedForms mn ↔
      ∃ row ∈ publishedTable, row.mnem = mn ∧ (row.op, row.mode, row.cyc, row.pcs) = f := by
  simp [publishedForms, and_assoc]

/-- What the published table says of an instruction is one of the forms of its mnemonic. -/
theorem form_mem_publishedForms (i : Instr) :
    (publishedTable.opByte i, i.mode, publishedTable.baseCycles i, publishedTable.pageSensitive i) ∈
      publishedForms i.mnem := by
  obtain ⟨row, hm, hn, hd, -, hb, hc, hs⟩ := publishedTable_row i
  exact mem_publishedForms.2 ⟨row, hm, hn, by rw [hb, hd, hc, hs]⟩

/-- A well-formed record under the opcode byte of a published row decodes to an instruction of the row's
mnemonic and mode. -/
theorem decodeRecord_of_published_row {row : TableRow} {r : Record} (hm : row ∈ publishedTable)
    (hw : r.wf publishedTable = true) (ho : r.opCode = row.op) :
    ∃ i, decodeRecord publishedTable r = .ok i ∧ i.mnem = row.mnem ∧ i.mode = row.mode := by
  obtain ⟨-, ht, hl⟩ := publishedTable_rows row hm
  rw [← Instr.ofShape_assemble_isSome row.mnem row.mode r.ob0 r.ob1] at hl
  obtain ⟨i, hi⟩ := Option.isSome_iff_exists.1 hl
  obtain ⟨hn, hop⟩ := Instr.of_ofShape hi
  have hr := OpcodeTable.rowAt_of_mem publishedTable_ok hm ht
  refine ⟨i, ?_, hn, by rw [Instr.mode, hop, Operand.mode_assemble]⟩
  rw [decodeRecord_of_rowAt hw (ho ▸ hr), hi]

/-- The encodings of a mnemonic are those of its published rows, in any order. -/
theorem hasEncodings_of_perm {mn : Mnemonic} {forms : List (Byte × Mode)}
    (h : forms.Perm ((publishedForms mn).map fun f => (f.1, f.2.1))) : HasEncodings mn forms := by
  constructor
  · rintro i rfl
    exact h.mem_iff.2 (List.mem_map_of_mem (form_mem_publishedForms i))
  · intro f hf r hw ho
    obtain ⟨_, hg, rfl⟩ := List.mem_map.1 (h.mem_iff.1 hf)
    obtain ⟨row, hm, rfl, rfl⟩ := mem_publishedForms.1 hg
    exact decodeRecord_of_published_row hm hw ho

/-- The forms of a mnemonic are its published rows, in any order. -/
theorem hasForms_of_perm {mn : Mnemonic} {forms : List (Byte × Mode × Nat × Bool)}
    (h : forms.Perm (publishedForms mn)) : HasForms mn forms := by
  refine ⟨hasEncodings_of_perm (h.map _), ?_⟩
  rintro i rfl
  exact h.mem_iff.2 (form_mem_publishedForms i)

/-! A table-dispatched instruction by the kind of its executor (R70 step 3, R75, R89, R90). -/

section
variable {i : Instr} {s : State} {e : Executor}

/-- The operand of a table-dispatched instruction serves its executor (R75). -/
theorem Executor.run_eq_some (he : executorOf i.mnem = some e) (s : State) :
    ∃ t, e.run i.operand s = some t := by
  cases i <;> cases he <;> exact ⟨_, rfl⟩

/-- The end of a table-dispatched instruction in the words of the statements: its executor writes neither
`pc` nor `CYC`, nor what its row is read by. -/
theorem epilogue_tableEffect (i : Instr) (s : State) :
    epilogue i (operandCrossed i.operand s) (tableEffect i.mnem i.operand s) =
      afterTable i s (tableEffect i.mnem i.operand s) := by
  simp [epilogue_eq, afterTable, laterBy_eq, Bool.toNat, Bool.cond_eq_ite]

/-- What `exec` answers for an instruction with an executor that is in the table. -/
theorem exec_of_executorOf (he : executorOf i.mnem = some e)
    (hc : i.cls = .tbl ∨ i.cls = .opt ∧ s.config.indexIncdec = true) :
    ∃ t, e.run i.operand s = some t ∧ exec i s = .next (afterTable i s t) := by
  obtain ⟨t, hr⟩ := Executor.run_eq_some he s
  have ht : tableEffect i.mnem i.operand s = t := by simp [tableEffect, he, hr]
  have hx : exec i s =
      .next (epilogue i (operandCrossed i.operand s) (tableEffect i.mnem i.operand s)) := by
    rw [exec_eq]
    unfold pairingOutcome
    obtain hc | ⟨hc, hg⟩ := hc <;> rw [Instr.cls, Instr.mode] at hc <;> rw [hc]
    · rfl
    · exact if_pos hg
  exact ⟨t, hr, by rw [hx, epilogue_tableEffect, ht]⟩

/-- An instruction whose executor asks nothing of its operand. -/
theorem exec_of_plain {f : State → State} (he : executorOf i.mnem = some (.plain f))
    (hc : i.cls = .tbl ∨ i.cls = .opt ∧ s.config.indexIncdec = true) :
    exec i s = .next (afterTable i s (f s)) := by
  obtain ⟨_, ⟨⟩, hx⟩ := exec_of_executorOf he hc
  exact hx

/-- Only INX, INY, DEX and DEY are optional, and their executors are plain (R53, R56). -/
theorem cls_eq_tbl_of_executorOf {mn : Mnemonic} (he : executorOf mn = some e)
    (hp : ∀ f, e ≠ .plain f) (md : Mode) : mn.cls md = .tbl := by
  cases mn <;> cases he
  case inx | iny | dex | dey => exact absurd rfl (hp _)
  all_goals rfl

/-- An instruction that takes a byte: its operand has a value, which the executor is given. -/
theorem exec_of_consume {f : Byte → State → State} (he : executorOf i.mnem = some (.consume f))
    (s : State) :
    ∃ v, operandValue i.operand s = some v ∧ exec i s = .next (afterTable i s (f v s)) := by
  obtain ⟨t, hr, hx⟩ := exec_of_executorOf (s := s) he (.inl (cls_eq_tbl_of_executorOf he nofun _))
  obtain ⟨v, hv, rfl⟩ := Option.map_eq_some_iff.1 hr
  exact ⟨v, hv, hx⟩

/-- An instruction that stores a byte: its operand has an effective address, at which it is stored. -/
theorem exec_of_store {v : State → Byte} (he : executorOf i.mnem = some (.store v)) (s : State) :
    ∃ ea, operandAddr i.operand s = some ea ∧
      exec i s = .next (afterTable i s { s with mem := s.mem.write ea.toNat (v s) }) := by
  obtain ⟨t, hr, hx⟩ := exec_of_executorOf (s := s) he (.inl (cls_eq_tbl_of_executorOf he nofun _))
  obtain ⟨ea, ha, rfl⟩ := Option.map_eq_some_iff.1 hr
  exact ⟨ea, ha, hx⟩

end

/-! A register loaded with a byte, and Z and N set from it (R91, R100 to R102). -/

section
variable (v : Byte) (s : State)

theorem loadA_eq : loadA v s = { s with a := v, flags := zn s.flags v } := rfl
theorem loadX_eq : loadX v s = { s with x := v, flags := zn s.flags v } := rfl
theorem loadY_eq : loadY v s = { s with y := v, flags := zn s.flags v } := rfl

end

end Sys2Proof.Machine

namespace Sys2Proof.Proofs

open Sys2Proof Sys2Proof.Machine Sys2Proof.Claims

/-- Settles O22: the eight forms are the rows of LDA, and its executor takes the operand's byte. -/
theorem ldaLoadsAccumulator : Obligations.LdaLoadsAccumulator := by
  refine ⟨hasForms_of_perm (by decide +kernel), fun i s h => ?_⟩
  simpa only [loadA_eq] using exec_of_consume (i := i) (congrArg executorOf h) s

/-- Settles O23: as for LDA, with the rows and the executors of LDX and LDY. -/
theorem ldxLdyLoadIndex : Obligations.LdxLdyLoadIndex := by
  refine ⟨hasForms_of_perm (by decide +kernel), hasForms_of_perm (by decide +kernel), fun i s h => ?ldx,
    fun i s h => ?ldy⟩
  case ldx => simpa only [loadX_eq] using exec_of_consume (i := i) (congrArg executorOf h) s
  case ldy => simpa only [loadY_eq] using exec_of_consume (i := i) (congrArg executorOf h) s

/-- Settles O24: the forms are the rows of the three mnemonics, and the executor of each stores its own
register. -/
theorem storesWriteRegister : Obligations.StoresWriteRegister := by
  refine ⟨hasForms_of_perm (by decide +kernel), hasForms_of_perm (by decide +kernel),
    hasForms_of_perm (by decide +kernel), ?_⟩
  rintro i s v (⟨h, rfl⟩ | ⟨h, rfl⟩ | ⟨h, rfl⟩) <;>
    exact exec_of_store (congrArg executorOf h) s

/-- Settles O25: each transfer is the one row of its mnemonic; the five that set flags load the destination
with the source. -/
theorem transfersCopyRegisters : Obligations.TransfersCopyRegisters := by
  refine ⟨hasForms_of_perm (by decide +kernel), hasForms_of_perm (by decide +kernel),
    hasForms_of_perm (by decide +kernel), hasForms_of_perm (by decide +kernel),
    hasForms_of_perm (by decide +kernel), hasForms_of_perm (by decide +kernel), fun s => ?_⟩
  simp only [← loadA_eq, ← loadX_eq, ← loadY_eq]
  exact ⟨exec_of_plain (f := copyAX) rfl (.inl rfl), exec_of_plain (f := copyAY) rfl (.inl rfl),
    exec_of_plain (f := copyXA) rfl (.inl rfl), exec_of_plain (f := copyYA) rfl (.inl rfl),
    exec_of_plain (f := copySpX) rfl (.inl rfl), exec_of_plain (f := copyXSp) rfl (.inl rfl)⟩

end Sys2Proof.Proofs

/-! SUPPORT. Arithmetic and logic: the byte and the flags each operation gives, in the words of the
statements; the overflow formula as signed overflow; and a change of D or I that a meaning carries through. -/

namespace Sys2Proof.Machine

open Sys2Proof Sys2Proof.Claims

/-! The overflow formula (R120, R121; properties T1 and T2). -/

/-- The mask `0x80` keeps the sign bit and no other. -/
theorem and_0x80_bne_zero (b : Byte) : (b &&& 0x80#8 != 0#8) = b.msb := by
  revert b
  decide

/-- Overflow is a result whose sign differs from that of both operands. -/
theorem overflow_eq_msb (r a m : Byte) :
    overflow r a m = ((r.msb ^^ a.msb) && (r.msb ^^ m.msb)) := by
  rw [overflow, and_0x80_bne_zero, BitVec.msb_and, BitVec.msb_xor, BitVec.msb_xor]

theorem overflow_eq_decide (r a m : Byte) :
    overflow r a m = decide ((r ^^^ a) &&& (r ^^^ m) &&& 0x80#8 ≠ 0#8) := by
  rw [Bool.eq_iff_iff, overflow, bne_iff_ne, decide_eq_true_iff]

/-- The formula of R120 says that the signed sum does not fit in a byte. -/
theorem overflow_carrySum (a m : Byte) (c : Bool) :
    overflow (BitVec.ofNat 8 (carrySum a m c)) a m = true ↔
      a.toInt + m.toInt + (c.toNat : Int) < -128 ∨ 127 < a.toInt + m.toInt + (c.toNat : Int) := by
  have ha := a.isLt
  have hm := m.isLt
  have hc := c.toNat_le
  have hr : (BitVec.ofNat 8 (carrySum a m c)).toNat = (a.toNat + m.toNat + c.toNat) % 256 := by
    rw [BitVec.toNat_ofNat, carrySum]
  simp only [overflow_eq_msb, Bool.and_eq_true, Bool.xor_iff_ne, ne_eq, BitVec.msb_eq_decide,
    decide_eq_decide, hr, BitVec.toInt_eq_toNat_cond]
  split <;> split <;> omega

/-! The complement SBC adds (R121). -/

theorem xor_0xFF_toNat (m : Byte) : (m ^^^ 0xFF#8).toNat = 255 - m.toNat := by
  rw [show (0xFF#8 : Byte) = BitVec.allOnes 8 from rfl, BitVec.xor_allOnes, BitVec.toNat_not]

theorem xor_0xFF_eq_ofNat (m : Byte) : m ^^^ 0xFF#8 = BitVec.ofNat 8 (255 - m.toNat) := by
  rw [← xor_0xFF_toNat, BitVec.ofNat_toNat, BitVec.setWidth_eq]

theorem xor_0xFF_toInt (m : Byte) : (m ^^^ 0xFF#8).toInt = -m.toInt - 1 := by
  have hm := m.isLt
  rw [BitVec.toInt_eq_toNat_cond, BitVec.toInt_eq_toNat_cond, xor_0xFF_toNat]
  split <;> split <;> omega

/-- The sum SBC forms is the difference with borrow, 256 higher. -/
theorem carrySum_xor_0xFF (a m : Byte) (c : Bool) :
    (carrySum a (m ^^^ 0xFF#8) c : Int) = (a.toNat : Int) - m.toNat - (1 - (c.toNat : Int)) + 256 := by
  have hm := m.isLt
  rw [carrySum, xor_0xFF_toNat]
  omega

/-! What the executors give (R120 to R134). -/

theorem Flags.afterSum_eq (f : Flags) (a m vop : Byte) :
    f.afterSum a m vop =
      { zn f (BitVec.ofNat 8 (carrySum a m f.c)) with
        c := decide (carrySum a m f.c > 255)
        v := decide ((BitVec.ofNat 8 (carrySum a m f.c) ^^^ a) &&&
          (BitVec.ofNat 8 (carrySum a m f.c) ^^^ vop) &&& 0x80#8 ≠ 0#8) } := by
  rw [← overflow_eq_decide]
  rfl

theorem Flags.afterCompare_eq (f : Flags) (reg m : Byte) :
    f.afterCompare reg m = { f with
      c := decide (m.toNat ≤ reg.toNat), z := decide (reg = m), n := (reg - m).getLsbD 7 } := rfl

section
variable (m : Byte) (s : State)

theorem addWithCarry_eq :
    addWithCarry m s = { s with
      a := BitVec.ofNat 8 (carrySum s.a m s.flags.c), flags := s.flags.afterSum s.a m m } := rfl

theorem subWithBorrow_eq :
    subWithBorrow m s = { s with
      a := BitVec.ofNat 8 (carrySum s.a (m ^^^ 0xFF#8) s.flags.c)
      flags := s.flags.afterSum s.a (m ^^^ 0xFF#8)
        (if s.config.sbcVComplement = true then m ^^^ 0xFF#8 else m) } := rfl

/-- SBC is the addition of the complement where the overflow formula takes it too (property T3). -/
theorem subWithBorrow_eq_addWithCarry (h : s.config.sbcVComplement = true) :
    subWithBorrow m s = addWithCarry (m ^^^ 0xFF#8) s := by
  rw [subWithBorrow_eq, if_pos h, addWithCarry_eq]

theorem bitTest_eq :
    bitTest m s = { s with flags := { s.flags with
      z := decide (s.a &&& m = 0#8), v := m.getLsbD 6, n := m.getLsbD 7 } } := rfl

theorem compareA_eq : compareA m s = { s with flags := s.flags.afterCompare s.a m } := rfl
theorem compareX_eq : compareX m s = { s with flags := s.flags.afterCompare s.x m } := rfl
theorem compareY_eq : compareY m s = { s with flags := s.flags.afterCompare s.y m } := rfl

theorem increment_eq (f : Flags) : increment m f = (m + 1#8, zn f (m + 1#8)) := rfl
theorem decrement_eq (f : Flags) : decrement m f = (m - 1#8, zn f (m - 1#8)) := rfl

end

/-- After an immediate byte two instructions end alike where their costs do: no page is crossed. -/
theorem afterTable_imm {i j : Instr} {s : State} (hi : i.mode = .imm) (hj : j.mode = .imm)
    (hc : rowCycles (s.row i.mnem .imm) = rowCycles (s.row j.mnem .imm)) (t : State) :
    afterTable i s t = afterTable j s t := by
  obtain ⟨v, hv⟩ := operand_eq_imm_of_mode hi
  obtain ⟨w, hw⟩ := operand_eq_imm_of_mode hj
  simp [afterTable, Instr.size, hi, hj, hc, hv, hw, operandCrossed]

/-! A read-modify-write instruction (R92, R93). -/

theorem modifyAt_eq_some {f : Byte → Flags → Byte × Flags} {o : Operand} {s t : State}
    (h : modifyAt f o s = some t) :
    ∃ v, operandValue o s = some v ∧
      t = { written o s (f v s.flags).1 with flags := (f v s.flags).2 } := by
  cases o <;> cases h <;> exact ⟨_, rfl, rfl⟩

/-- A read-modify-write instruction: its operand has a value, and the result is written where it stood. -/
theorem exec_of_modify {i : Instr} {f : Byte → Flags → Byte × Flags}
    (he : executorOf i.mnem = some (.modify f)) (s : State) :
    ∃ v, operandValue i.operand s = some v ∧
      exec i s = .next (afterTable i s
        { written i.operand s (f v s.flags).1 with flags := (f v s.flags).2 }) := by
  obtain ⟨t, hr, hx⟩ := exec_of_executorOf (s := s) he (.inl (cls_eq_tbl_of_executorOf he nofun _))
  obtain ⟨v, hv, rfl⟩ := modifyAt_eq_some hr
  exact ⟨v, hv, hx⟩

/-- INC and DEC have no form on the accumulator (R53). -/
theorem operand_of_inc_dec {i : Instr} (h : i.mnem = .inc ∨ i.mnem = .dec) : ∃ md, i.operand = .mem md := by
  obtain h | h := h <;> cases i <;> cases h <;> exact ⟨_, rfl⟩

/-- INC and DEC in their one shape: the byte at the effective address is replaced by the result. -/
theorem exec_of_inc_dec {i : Instr} {f : Byte → Flags → Byte × Flags} (h : i.mnem = .inc ∨ i.mnem = .dec)
    (he : executorOf i.mnem = some (.modify f)) (s : State) :
    ∃ ea, operandAddr i.operand s = some ea ∧
      exec i s = .next (afterTable i s { s with
        mem := s.mem.write ea.toNat (f (s.mem.read ea.toNat) s.flags).1
        flags := (f (s.mem.read ea.toNat) s.flags).2 }) := by
  obtain ⟨v, hv, hx⟩ := exec_of_modify he s
  obtain ⟨md, ho⟩ := operand_of_inc_dec h
  rw [ho] at hv hx ⊢
  obtain rfl := Option.some.inj hv
  exact ⟨_, rfl, hx⟩

/-! A change of flags that a meaning carries through (R135, R195; properties T13 and T14). -/

/-- The state with its flags changed; `withD` and `withI` are two such changes. -/
def mapFlags (g : Flags → Flags) (s : State) : State := s.setFlags (g s.flags)

theorem withD_eq_mapFlags (b : Bool) : withD b = mapFlags fun f => { f with d := b } := rfl
theorem withI_eq_mapFlags (b : Bool) : withI b = mapFlags fun f => { f with i := b } := rfl

section
variable {mn : Mnemonic} {o : Operand} {s : State}

@[simp] theorem operandCrossed_mapFlags (g : Flags → Flags) :
    operandCrossed o (mapFlags g s) = operandCrossed o s := by
  cases o <;> rfl

/-- Outside the executor and the control transfer a transaction reads no flag. -/
theorem pairingOutcome_mapFlags {g : Flags → Flags}
    (ht : tableEffect mn o (mapFlags g s) = mapFlags g (tableEffect mn o s))
    (hc : controlEffect mn o (mapFlags g s) = mapFlags g (controlEffect mn o s)) :
    pairingOutcome mn o (mapFlags g s) = mapNext (mapFlags g) (pairingOutcome mn o s) := by
  unfold pairingOutcome
  rw [ht, hc, operandCrossed_mapFlags]
  cases mn.cls o.mode
  case opt => cases hg : s.config.indexIncdec <;> simp [mapFlags, mapNext, hg] <;> rfl
  all_goals rfl

variable (b : Bool)

/-- No executor but PHP's reads D, and those of CLD, SED and PLP write it. -/
theorem tableEffect_withD (h : mn ∉ [.php, .cld, .sed, .plp]) :
    tableEffect mn o (withD b s) = withD b (tableEffect mn o s) := by
  cases mn
  case php | cld | sed | plp => simp at h
  all_goals cases o <;> rfl

/-- No executor but PHP's reads I. -/
theorem tableEffect_withI (h : mn ∉ [.php]) :
    tableEffect mn o (withI b s) = withI b (tableEffect mn o s) := by
  cases mn
  case php => simp at h
  all_goals cases o <;> rfl

theorem branchEffect_withD (cond : Bool) :
    branchEffect cond o (withD b s) = withD b (branchEffect cond o s) := by
  cases o <;> cases cond <;> rfl

theorem branchEffect_withI (cond : Bool) :
    branchEffect cond o (withI b s) = withI b (branchEffect cond o s) := by
  cases o <;> cases cond <;> rfl

/-- No control transfer but BRK reads D, and RTI writes it. -/
theorem controlEffect_withD (h : mn ∉ [.brk, .rti]) :
    controlEffect mn o (withD b s) = withD b (controlEffect mn o s) := by
  cases mn
  case brk | rti => simp at h
  case bcc | bcs | beq | bmi | bne | bpl | bvc | bvs => exact branchEffect_withD ..
  all_goals cases o <;> rfl

/-- No control transfer but BRK reads I, and RTI writes it. -/
theorem controlEffect_withI (h : mn ∉ [.brk, .rti]) :
    controlEffect mn o (withI b s) = withI b (controlEffect mn o s) := by
  cases mn
  case brk | rti => simp at h
  case bcc | bcs | beq | bmi | bne | bpl | bvc | bvs => exact branchEffect_withI ..
  all_goals cases o <;> rfl

end

/-- CLD, SED, PLP and RTI write D and do not read it. -/
theorem exec_withD_of_writer {i : Instr} (h : i.mnem ∈ [.cld, .sed, .plp, .rti]) (b : Bool) (s : State) :
    exec i (withD b s) = exec i s := by
  simp only [List.mem_cons, List.not_mem_nil, or_false] at h
  obtain h | h | h | h := h <;> rw [exec_eq, exec_eq, h] <;> cases i.operand <;> rfl

end Sys2Proof.Machine

namespace Sys2Proof.Proofs

open Sys2Proof Sys2Proof.Machine Sys2Proof.Claims

/-- Settles O26: the sum and the flags are those of the one addition with carry. -/
theorem adcAddsWithCarry : Obligations.AdcAddsWithCarry := by
  refine ⟨hasForms_of_perm (by decide +kernel), fun i s h => ?_⟩
  obtain ⟨m, hm, hx⟩ := exec_of_consume (i := i) (congrArg executorOf h) s
  refine ⟨m, hm, ?_⟩
  rw [hx, addWithCarry_eq, Flags.afterSum_eq]
  rfl

/-- Settles O27: the same addition, of the complement, which is 255 less the operand. -/
theorem sbcSubtractsWithBorrow : Obligations.SbcSubtractsWithBorrow := by
  refine ⟨hasForms_of_perm (by decide +kernel), fun i s h => ?_⟩
  obtain ⟨m, hm, hx⟩ := exec_of_consume (i := i) (congrArg executorOf h) s
  refine ⟨m, hm, ?_⟩
  dsimp only
  rw [hx, subWithBorrow_eq, Flags.afterSum_eq, ← xor_0xFF_eq_ofNat, ← xor_0xFF_toNat]
  rfl

/-- Settles O31: INC and DEC have memory operands only. -/
theorem incDecChangeMemoryByOne : Obligations.IncDecChangeMemoryByOne := by
  refine ⟨hasForms_of_perm (by decide +kernel), hasForms_of_perm (by decide +kernel), fun i s h => ?_⟩
  simp only [List.mem_cons, List.not_mem_nil, or_false] at h
  obtain h | h := h
  · simpa only [increment_eq, h, if_true] using
      exec_of_inc_dec (.inl h) (congrArg executorOf h) s
  · simpa only [decrement_eq, h, reduceCtorEq, if_false] using
      exec_of_inc_dec (.inr h) (congrArg executorOf h) s

/-- Settles O34: V is the overflow formula of the sum, C its excess over a byte. -/
theorem adcOverflowIsSigned : Obligations.AdcOverflowIsSigned := by
  intro i s h
  obtain ⟨m, hm, hx⟩ := exec_of_consume (i := i) (congrArg executorOf h) s
  exact ⟨m, _, hm, hx, overflow_carrySum s.a m s.flags.c, decide_eq_true_iff⟩

/-- Settles O35: the sum with the complement is the difference, 256 higher. -/
theorem sbcDifferenceAndOverflow : Obligations.SbcDifferenceAndOverflow := by
  intro i s h hv
  obtain ⟨m, hm, hx⟩ := exec_of_consume (i := i) (congrArg executorOf h) s
  rw [subWithBorrow_eq_addWithCarry m s hv] at hx
  have hsum := carrySum_xor_0xFF s.a m s.flags.c
  refine ⟨m, _, hm, hx, ?a, ?c, ?v⟩
  case a =>
    change ((BitVec.ofNat 8 (carrySum s.a (m ^^^ 0xFF#8) s.flags.c)).toNat : Int) = _
    rw [BitVec.toNat_ofNat]
    omega
  case c =>
    refine decide_eq_true_iff.trans ?_
    omega
  case v =>
    refine (overflow_carrySum s.a (m ^^^ 0xFF#8) s.flags.c).trans ?_
    rw [xor_0xFF_toInt]
    omega

/-- Settles O36: the executors agree, and the two forms end alike where their costs do. -/
theorem sbcIsAdcOfComplement : Obligations.SbcIsAdcOfComplement := by
  refine ⟨fun m s hv hc => ?_, fun m n => ?_⟩
  · obtain ⟨_, ⟨⟩, hsbc⟩ := exec_of_consume (i := .sbcImm m) (f := subWithBorrow) rfl s
    obtain ⟨_, ⟨⟩, hadc⟩ := exec_of_consume (i := .adcImm (m ^^^ 0xFF#8)) (f := addWithCarry) rfl s
    rw [hsbc, hadc, subWithBorrow_eq_addWithCarry m s hv]
    exact congrArg _ (afterTable_imm (i := .sbcImm m) (j := .adcImm (m ^^^ 0xFF#8)) rfl rfl hc _)
  · change rowCycles (publishedTable.rowOf .sbc .imm) = rowCycles (publishedTable.rowOf .adc .imm)
    decide +kernel

/-- Settles O37: the executors and the control transfers carry a change of D or I through, but for those
that push it and those that write it. -/
theorem decimalAndInterruptFlagsNeverRead : Obligations.DecimalAndInterruptFlagsNeverRead := by
  refine ⟨fun i s b h => ?_, fun i s b h => exec_withD_of_writer h b s, fun i s b h => ?_, fun _ _ => rfl⟩
  · rw [exec_eq, exec_eq, withD_eq_mapFlags]
    exact pairingOutcome_mapFlags (tableEffect_withD b (notMem_of_subset h))
      (controlEffect_withD b (notMem_of_subset h))
  · rw [exec_eq, exec_eq, withI_eq_mapFlags]
    exact pairingOutcome_mapFlags (tableEffect_withI b (notMem_of_subset h))
      (controlEffect_withI b (notMem_of_subset h))

/-- Settles O28: each of the three loads A with its result. -/
theorem logicWritesAccumulator : Obligations.LogicWritesAccumulator := by
  refine ⟨hasForms_of_perm (by decide +kernel), hasForms_of_perm (by decide +kernel),
    hasForms_of_perm (by decide +kernel), fun i s h => ?_⟩
  simp only [List.mem_cons, List.not_mem_nil, or_false] at h
  obtain h | h | h := h <;>
    simpa [h, andA, orA, eorA, loadA_eq] using exec_of_consume (i := i) (congrArg executorOf h) s

/-- Settles O29: the executor of BIT writes the three flags and nothing else. -/
theorem bitTestsMemory : Obligations.BitTestsMemory := by
  refine ⟨hasForms_of_perm (by decide +kernel), fun i s h => ?_⟩
  simpa only [bitTest_eq] using exec_of_consume (i := i) (congrArg executorOf h) s

/-- Settles O30: the three executors compare their own register. -/
theorem comparesSetCarryZeroNegative : Obligations.ComparesSetCarryZeroNegative := by
  refine ⟨hasForms_of_perm (by decide +kernel), hasForms_of_perm (by decide +kernel),
    hasForms_of_perm (by decide +kernel), ?_⟩
  rintro i s reg (⟨h, rfl⟩ | ⟨h, rfl⟩ | ⟨h, rfl⟩) <;>
    simpa only [compareA_eq, compareX_eq, compareY_eq, Flags.afterCompare_eq] using
      exec_of_consume (i := i) (congrArg executorOf h) s

/-- Settles O32: with `INDEX_INCDEC` true the four are in the table, and each loads its register. -/
theorem indexIncDecWhenPresent : Obligations.IndexIncDecWhenPresent := by
  refine ⟨hasForms_of_perm (by decide +kernel), hasForms_of_perm (by decide +kernel),
    hasForms_of_perm (by decide +kernel), hasForms_of_perm (by decide +kernel), fun s h => ?_⟩
  simp only [← loadX_eq, ← loadY_eq]
  exact ⟨exec_of_plain (f := incrementX) rfl (.inr ⟨rfl, h⟩),
    exec_of_plain (f := incrementY) rfl (.inr ⟨rfl, h⟩),
    exec_of_plain (f := decrementX) rfl (.inr ⟨rfl, h⟩),
    exec_of_plain (f := decrementY) rfl (.inr ⟨rfl, h⟩)⟩

end Sys2Proof.Proofs

/-! SUPPORT. Shifts and rotates: the byte each gives as a number, the carry with the accumulator as one ring
of nine bits, and an instruction repeated. -/

namespace Sys2Proof.Machine

open Sys2Proof Sys2Proof.Claims

/-! The byte of each shift and rotate, in the words of the statements (R140 to R143). -/

section
variable (v : Byte) (c : Bool)

theorem shiftLeft_one_eq_ofNat : v <<< 1 = BitVec.ofNat 8 (v.toNat * 2) := by
  bv_omega

theorem ushiftRight_one_eq_ofNat : v >>> 1 = BitVec.ofNat 8 (v.toNat / 2) := by
  bv_omega

theorem bitAt_eq_ofNat (j : Nat) : bitAt c j = BitVec.ofNat 8 (c.toNat * 2 ^ j) := by
  cases c
  · simp [bitAt]
  · exact BitVec.eq_of_toNat_eq (by simp [bitAt, Nat.shiftLeft_eq])

theorem getElem_bitAt {j k : Nat} (hj : j < 8) (hk : k < 8) : (bitAt c j)[k] = (c && decide (k = j)) := by
  simpa [BitVec.getLsbD_eq_getElem hk] using getLsbD_bitAt c ⟨j, hj⟩ ⟨k, hk⟩

/-- Setting a free bit is adding it. -/
theorem or_bitAt_eq_add {r : Byte} {j : Nat} (hj : j < 8) (h : r[j] = false) :
    r ||| bitAt c j = r + BitVec.ofNat 8 (c.toNat * 2 ^ j) := by
  have hfree : r &&& bitAt c j = 0#8 := by
    ext k hk
    by_cases hkj : k = j
    · simp [hkj, h]
    · simp [getElem_bitAt c hj hk, hkj]
  rw [← BitVec.add_eq_or_of_and_eq_zero _ _ hfree, bitAt_eq_ofNat]

/-- The shift to the left frees bit 0, where the carry enters. -/
theorem shiftLeft_one_or_bitAt_zero :
    v <<< 1 ||| bitAt c 0 = BitVec.ofNat 8 (v.toNat * 2 + c.toNat) := by
  rw [or_bitAt_eq_add c (by omega) (by simp), shiftLeft_one_eq_ofNat, ← BitVec.ofNat_add, pow_zero, mul_one]

/-- The shift to the right frees bit 7, where the carry enters. -/
theorem ushiftRight_one_or_bitAt_seven :
    v >>> 1 ||| bitAt c 7 = BitVec.ofNat 8 (v.toNat / 2 + c.toNat * 128) := by
  rw [or_bitAt_eq_add c (by omega) (by simp), ushiftRight_one_eq_ofNat, ← BitVec.ofNat_add]
  rfl

end

/-! What the executors give. -/

section
variable (v : Byte) (f : Flags)

theorem shiftLeft_eq :
    shiftLeft v f = (BitVec.ofNat 8 (v.toNat * 2),
      { zn f (BitVec.ofNat 8 (v.toNat * 2)) with c := v.getLsbD 7 }) := by
  rw [← shiftLeft_one_eq_ofNat]
  rfl

theorem shiftRight_eq :
    shiftRight v f = (BitVec.ofNat 8 (v.toNat / 2),
      { zn f (BitVec.ofNat 8 (v.toNat / 2)) with c := v.getLsbD 0 }) := by
  rw [← ushiftRight_one_eq_ofNat]
  rfl

theorem rotateLeft_eq :
    rotateLeft v f = (BitVec.ofNat 8 (v.toNat * 2 + f.c.toNat),
      { zn f (BitVec.ofNat 8 (v.toNat * 2 + f.c.toNat)) with c := v.getLsbD 7 }) := by
  rw [← shiftLeft_one_or_bitAt_zero]
  rfl

theorem rotateRight_eq :
    rotateRight v f = (BitVec.ofNat 8 (v.toNat / 2 + f.c.toNat * 128),
      { zn f (BitVec.ofNat 8 (v.toNat / 2 + f.c.toNat * 128)) with c := v.getLsbD 0 }) := by
  rw [← ushiftRight_one_or_bitAt_seven]
  rfl

end

/-! The ring of nine bits ROL and ROR turn (R142, R143; property T9). -/

/-- The carry above the accumulator: the nine bits a rotate of the accumulator turns by one place. -/
def carryRing (s : State) : BitVec 9 := BitVec.cons s.flags.c s.a

/-- The ring determines the accumulator and the carry. -/
theorem eq_of_carryRing_eq {s t : State} (h : carryRing t = carryRing s) :
    t.a = s.a ∧ t.flags.c = s.flags.c := by
  constructor
  · simpa [carryRing] using congrArg (BitVec.setWidth 8) h
  · simpa [carryRing] using congrArg BitVec.msb h

/-- ROL turns the ring by one place: the nine places one by one. -/
theorem cons_rotateLeft (v : Byte) (f : Flags) :
    BitVec.cons (rotateLeft v f).2.c (rotateLeft v f).1 = (BitVec.cons f.c v).rotateLeft 1 := by
  ext i hi
  interval_cases i <;> simp [rotateLeft, getElem_bitAt, BitVec.getElem_cons, BitVec.getElem_rotateLeft]

/-- ROR turns the ring by one place the other way, which is eight this way: place by place as well. -/
theorem cons_rotateRight (v : Byte) (f : Flags) :
    BitVec.cons (rotateRight v f).2.c (rotateRight v f).1 = (BitVec.cons f.c v).rotateLeft 8 := by
  ext i hi
  interval_cases i <;> simp [rotateRight, getElem_bitAt, BitVec.getElem_cons, BitVec.getElem_rotateLeft]

section
variable (x : BitVec 9)

/-- A turn of the ring by `r` places brings to each place the bit `r` places below it, as eight times as many
places above it. -/
theorem getElem_rotateLeft_nine (r : Nat) {i : Nat} (hi : i < 9) :
    (x.rotateLeft r)[i] = x[(i + 8 * r) % 9]'(Nat.mod_lt _ (by decide)) := by
  rw [BitVec.getElem_rotateLeft]
  split <;> (congr 1; omega)

/-- Turns of the ring add up. -/
theorem rotateLeft_nine_rotateLeft (m n : Nat) : (x.rotateLeft m).rotateLeft n = x.rotateLeft (m + n) := by
  ext i hi
  simp only [getElem_rotateLeft_nine]
  congr 1
  omega

/-- Nine equal turns are whole turns. -/
theorem rotateLeft_nine_mul_nine (r : Nat) : x.rotateLeft (r * 9) = x := by
  ext i hi
  rw [getElem_rotateLeft_nine]
  congr 1
  omega

end

/-- From every state the instruction answers with the ring turned by `r` places. -/
def TurnsRing (i : Instr) (r : Nat) : Prop :=
  ∀ s, ∃ t, exec i s = .next t ∧ carryRing t = (carryRing s).rotateLeft r

/-- A rotate of the accumulator turns the ring as its executor does. -/
theorem turnsRing_of_modify {i : Instr} {f : Byte → Flags → Byte × Flags} {r : Nat}
    (ho : i.operand = .acc) (he : executorOf i.mnem = some (.modify f))
    (hf : ∀ v g, BitVec.cons (f v g).2.c (f v g).1 = (BitVec.cons g.c v).rotateLeft r) :
    TurnsRing i r := by
  intro s
  obtain ⟨v, hv, hx⟩ := exec_of_modify he s
  rw [ho] at hv hx
  obtain rfl := Option.some.inj hv
  exact ⟨_, hx, hf s.a s.flags⟩

theorem turnsRing_rolAcc : TurnsRing .rolAcc 1 := turnsRing_of_modify rfl rfl cons_rotateLeft

theorem turnsRing_rorAcc : TurnsRing .rorAcc 8 := turnsRing_of_modify rfl rfl cons_rotateRight

/-- Repeating the instruction adds its turns up. -/
theorem TurnsRing.execAll_replicate {i : Instr} {r : Nat} (h : TurnsRing i r) (n : Nat) (s : State) :
    ∃ t, execAll (List.replicate n i) s = .next t ∧ carryRing t = (carryRing s).rotateLeft (r * n) := by
  induction n generalizing s with
  | zero => exact ⟨s, rfl, (rotateLeft_nine_mul_nine _ 0).symm⟩
  | succ n ih =>
    obtain ⟨u, hu, hur⟩ := h s
    obtain ⟨t, ht, htr⟩ := ih u
    refine ⟨t, ?_, ?_⟩
    · rw [List.replicate_succ, execAll, hu]
      exact ht
    · rw [htr, hur, rotateLeft_nine_rotateLeft, Nat.mul_succ, Nat.add_comm]

/-- Nine of its turns restore what the ring holds, whatever the turn. -/
theorem TurnsRing.nine_restore {i : Instr} {r : Nat} (h : TurnsRing i r) (s : State) :
    ∃ t, execAll (List.replicate 9 i) s = .next t ∧ t.a = s.a ∧ t.flags.c = s.flags.c := by
  obtain ⟨t, ht, hr⟩ := h.execAll_replicate 9 s
  exact ⟨t, ht, eq_of_carryRing_eq (hr.trans (rotateLeft_nine_mul_nine ..))⟩

end Sys2Proof.Machine

namespace Sys2Proof.Proofs

open Sys2Proof Sys2Proof.Machine Sys2Proof.Claims

/-- Settles O39: the shifted byte is written where it stood; as a number it is the double or the half. -/
theorem shiftsFillWithZero : Obligations.ShiftsFillWithZero := by
  refine ⟨hasForms_of_perm (by decide +kernel), hasForms_of_perm (by decide +kernel),
    fun i s h => ?asl, fun i s h => ?lsr⟩
  case asl => simpa only [shiftLeft_eq] using exec_of_modify (i := i) (congrArg executorOf h) s
  case lsr => simpa only [shiftRight_eq] using exec_of_modify (i := i) (congrArg executorOf h) s

/-- Settles O40: as for the shifts, with the old carry added in the bit the shift frees. -/
theorem rotatesGoThroughCarry : Obligations.RotatesGoThroughCarry := by
  refine ⟨hasForms_of_perm (by decide +kernel), hasForms_of_perm (by decide +kernel),
    fun i s h => ?rol, fun i s h => ?ror⟩
  case rol => simpa only [rotateLeft_eq] using exec_of_modify (i := i) (congrArg executorOf h) s
  case ror => simpa only [rotateRight_eq] using exec_of_modify (i := i) (congrArg executorOf h) s

/-- Settles O41: the carry and the accumulator are a ring of nine bits; ROL turns it by one place and ROR
by eight, so that nine of either are whole turns. -/
theorem nineRotationsRestore : Obligations.NineRotationsRestore := by
  rintro i s (rfl | rfl)
  · exact turnsRing_rolAcc.nine_restore s
  · exact turnsRing_rorAcc.nine_restore s

end Sys2Proof.Proofs

/-! SUPPORT. Flag instructions, the stack and NOP: what the executors and the stack operations do in the words
of the statements, a push undone by a pop, and the status byte bit by bit. -/

namespace Sys2Proof.Machine

open Sys2Proof Sys2Proof.Claims

/-! The stack in the words of the statements (R157 to R159). -/

theorem lo8_eq_ofNat_mod (w : Addr) : lo8 w = BitVec.ofNat 8 (w.toNat % 256) :=
  BitVec.eq_of_toNat_eq (by simp)

section
variable (s : State)

theorem State.push_inStack (b : Byte) :
    s.push b = { s with mem := s.mem.write (inStack s.sp) b, sp := s.sp - 1#8 } := s.push_eq b

theorem State.top_inStack : s.top = s.mem.read (inStack (s.sp + 1#8)) := s.top_eq

@[simp] theorem State.push_sp (b : Byte) : (s.push b).sp = s.sp - 1#8 := rfl

@[simp] theorem State.popped_sp : s.popped.sp = s.sp + 1#8 := rfl

/-- The byte pushed last is on top: the pointer comes back to the place it was stored at. -/
@[simp] theorem State.top_push (b : Byte) : (s.push b).top = b := by
  simp [State.top_eq, State.push_eq]

theorem State.push_popped_sp (b : Byte) : (s.push b).popped.sp = s.sp := by simp

/-- A push then a pop changes no byte but the one at the old stack pointer. -/
theorem State.push_popped_load_other (b : Byte) {a : Addr} (h : a.toNat ≠ inStack s.sp) :
    (s.push b).popped.load a = s.load a :=
  push_load_other fun e => h (by rw [e, stackAddr_toNat, inStack])

/-- The byte below the one pushed last is the byte on top before, wherever `SP` stands. -/
theorem State.push_popped_top (b : Byte) : (s.push b).popped.top = s.top := by
  have hn : (stackAddr (s.sp + 1#8)).toNat ≠ inStack s.sp := by
    rw [stackAddr_toNat, inStack]
    bv_omega
  rw [State.top, State.push_popped_sp, State.push_popped_load_other s b hn, State.top]

/-- The word pushed last is on top: its low byte, and below it the high byte. -/
theorem State.top16_push16 (w : Addr) : (s.push16 w).top16 = w := by
  rw [State.top16, State.push16, State.push_popped_top, State.top_push, State.top_push, word16_hi8_lo8]

theorem State.push16_popped16_sp (w : Addr) : (s.push16 w).popped16.sp = s.sp := by
  simp [State.push16, State.popped16]

end

/-! The executors in the words of the statements (R162 to R165). -/

section
variable (s : State)

theorem pushA_eq :
    pushA s = { s with mem := s.mem.write (inStack s.sp) s.a, sp := s.sp - 1#8 } := s.push_inStack s.a

theorem pushStatus_eq :
    pushStatus s = { s with
      mem := s.mem.write (inStack s.sp) (encodeStatus s.config.flagPos s.flags)
      sp := s.sp - 1#8 } := s.push_inStack _

theorem pullA_eq :
    pullA s = { s with
      a := s.mem.read (inStack (s.sp + 1#8))
      sp := s.sp + 1#8
      flags := zn s.flags (s.mem.read (inStack (s.sp + 1#8))) } := by
  rw [← State.top_inStack]
  rfl

theorem pullStatus_eq :
    pullStatus s = { s with
      sp := s.sp + 1#8
      flags := decodeExceptI s.config.flagPos s.flags (s.mem.read (inStack (s.sp + 1#8)))
      pend := some ((s.mem.read (inStack (s.sp + 1#8))).getLsbD s.config.flagPos.i) } := by
  rw [← State.top_inStack]
  rfl

end

/-! NOP: the published row, whether read by NOP's own byte or by its pairing (R53, R166). -/

theorem publishedTable_row_nop {s : State} (ht : s.config.table = publishedTable)
    (ho : s.op = none ∨ s.op = some 0xEA) :
    rowCycles (s.row Instr.nop.mnem Instr.nop.mode) = 2 ∧
      rowSensitive (s.row Instr.nop.mnem Instr.nop.mode) = false := by
  obtain ho | ho := ho
  · rw [State.row_of_none ho, ht]
    decide +kernel
  · rw [State.row_of_some ho, ht]
    decide +kernel

/-! A step at a byte that is a whole instruction of the published table. -/

/-- Where the byte at `pc` is that of a one-byte instruction, the step runs it. -/
theorem step_of_published_byte {s : State} {i : Instr} (ht : s.config.table = publishedTable)
    (hz : i.size = 1) (hb : s.load s.pc = publishedTable.opByte i) :
    step s = exec i (withOp none (applyPending s)) := by
  refine Proofs.stepRunsStoredInstruction s i (.inl ht) fun k hk => ?_
  obtain rfl : k = 0 := by omega
  rw [ht, encode, Record.stream_zero]
  simp [encodeRecord, Instr.record, hb]

/-- Where the byte at `pc` is that of a one-byte instruction with a plain executor, the step completes with
what the executor leaves. -/
theorem step_of_published_plain {s : State} {i : Instr} {f : State → State}
    (ht : s.config.table = publishedTable) (hz : i.size = 1)
    (hb : s.load s.pc = publishedTable.opByte i) (he : executorOf i.mnem = some (.plain f))
    (hc : i.cls = .tbl) :
    step s = .next (afterTable i (withOp none (applyPending s)) (f (withOp none (applyPending s)))) :=
  (step_of_published_byte ht hz hb).trans (exec_of_plain he (.inl hc))

/-! The status byte (R160, R161). -/

section
variable (p : FlagPos) (f : Flags)

/-- A bit of the status byte is 1 exactly where an unused bit, or a flag that is 1, has its position. -/
theorem getLsbD_encodeStatus_iff (k : Fin 8) : (encodeStatus p f).getLsbD k = true ↔
    k = p.b ∨ k = p.u ∨ k = p.c ∧ f.c = true ∨ k = p.z ∧ f.z = true ∨ k = p.i ∧ f.i = true ∨
      k = p.d ∧ f.d = true ∨ k = p.v ∧ f.v = true ∨ k = p.n ∧ f.n = true := by
  simp only [getLsbD_encodeStatus, Bool.or_eq_true, Bool.and_eq_true, decide_eq_true_eq]
  tauto

theorem encodeStatus_publishedFlagPos : encodeStatus publishedFlagPos f = statusByte f := by
  obtain ⟨c, z, i, d, v, n⟩ := f
  revert c z i d v n
  decide

variable {p}

/-- Eight different positions are all the positions of a byte. -/
theorem position_cases (h : distinctPositions p = true) (k : Fin 8) :
    k = p.c ∨ k = p.z ∨ k = p.i ∨ k = p.d ∨ k = p.b ∨ k = p.u ∨ k = p.v ∨ k = p.n := by
  have hu := Finset.eq_univ_of_card _ (List.toFinset_card_of_nodup (of_decide_eq_true h))
  simpa [Finset.ext_iff] using congrArg (k ∈ ·) hu

/-- Encoding after decoding gives each bit back, but for the two unused ones: every position is that of one
of the six flags or of an unused bit. -/
theorem encodeStatus_decodeStatus (h : distinctPositions p = true) (b : Byte) :
    encodeStatus p (decodeStatus p f b) = b ||| 1#8 <<< (p.b : Nat) ||| 1#8 <<< (p.u : Nat) := by
  refine BitVec.eq_of_getLsbD_eq fun k hk => ?_
  change (encodeStatus p (decodeStatus p f b)).getLsbD (⟨k, hk⟩ : Fin 8) =
    (b ||| bitAt true p.b ||| bitAt true p.u).getLsbD (⟨k, hk⟩ : Fin 8)
  generalize (⟨k, hk⟩ : Fin 8) = j
  rw [Bool.eq_iff_iff, getLsbD_encodeStatus_iff]
  simp only [BitVec.getLsbD_or, getLsbD_bitAt, Bool.or_eq_true, Bool.true_and, decide_eq_true_eq,
    decodeStatus, decodeExceptI]
  constructor
  · rintro (rfl | rfl | hflag)
    · exact .inl (.inr rfl)
    · exact .inr rfl
    · refine .inl (.inl ?_)
      obtain ⟨rfl, hb⟩ | ⟨rfl, hb⟩ | ⟨rfl, hb⟩ | ⟨rfl, hb⟩ | ⟨rfl, hb⟩ | ⟨rfl, hb⟩ := hflag <;> exact hb
  · rintro ((hb | rfl) | rfl)
    · obtain rfl | rfl | rfl | rfl | rfl | rfl | rfl | rfl := position_cases h j <;> simp [hb]
    · exact .inl rfl
    · exact .inr (.inl rfl)

/-- Decoding an encoding gives each flag back: no other flag and no unused bit has its position. -/
theorem decodeStatus_encodeStatus (h : distinctPositions p = true) (g : Flags) :
    decodeStatus p g (encodeStatus p f) = f := by
  have hd : [p.c, p.z, p.i, p.d, p.b, p.u, p.v, p.n].Nodup := of_decide_eq_true h
  have hr : [p.n, p.v, p.u, p.b, p.d, p.i, p.z, p.c].Nodup := List.nodup_reverse.2 hd
  simp only [List.nodup_cons, List.mem_cons, not_or] at hd hr
  simp only [decodeStatus, decodeExceptI, getLsbD_encodeStatus]
  simp [hd, hr]

end

end Sys2Proof.Machine

namespace Sys2Proof.Proofs

open Sys2Proof Sys2Proof.Machine Sys2Proof.Claims

/-- Settles O42: each instruction is the one row of its mnemonic, and its executor writes its flag. -/
theorem flagInstructionsSetOneFlag : Obligations.FlagInstructionsSetOneFlag := by
  refine ⟨hasForms_of_perm (by decide +kernel), hasForms_of_perm (by decide +kernel),
    hasForms_of_perm (by decide +kernel), hasForms_of_perm (by decide +kernel),
    hasForms_of_perm (by decide +kernel), fun s => ?_⟩
  exact ⟨exec_of_plain (f := writeC false) rfl (.inl rfl), exec_of_plain (f := writeC true) rfl (.inl rfl),
    exec_of_plain (f := writeD false) rfl (.inl rfl), exec_of_plain (f := writeD true) rfl (.inl rfl),
    exec_of_plain (f := clearV) rfl (.inl rfl)⟩

/-- Settles O43: the executors of CLI and SEI write the latch. -/
theorem cliSeiStageTheLatch : Obligations.CliSeiStageTheLatch :=
  ⟨hasForms_of_perm (by decide +kernel), hasForms_of_perm (by decide +kernel), fun _ =>
    ⟨exec_of_plain (f := stage false) rfl (.inl rfl), exec_of_plain (f := stage true) rfl (.inl rfl)⟩⟩

/-- Settles O44: the executors of PHA and PHP push a byte. -/
theorem pushesStoreThenDecrement : Obligations.PushesStoreThenDecrement := by
  refine ⟨hasForms_of_perm (by decide +kernel), hasForms_of_perm (by decide +kernel), fun s => ?_⟩
  rw [← pushA_eq, ← pushStatus_eq]
  exact ⟨exec_of_plain rfl (.inl rfl), exec_of_plain rfl (.inl rfl)⟩

/-- Settles O45: the executor of PLA pops a byte and loads it. -/
theorem plaPopsAccumulator : Obligations.PlaPopsAccumulator := by
  refine ⟨hasForms_of_perm (by decide +kernel), fun s => ?_⟩
  dsimp only
  rw [← pullA_eq]
  exact exec_of_plain rfl (.inl rfl)

/-- Settles O46: the executor of PLP pops a byte, decodes it but for `I`, and stages its bit for `I`. -/
theorem plpPopsFlagsAndStagesI : Obligations.PlpPopsFlagsAndStagesI := by
  refine ⟨hasForms_of_perm (by decide +kernel), fun s => ?_⟩
  exact (exec_of_plain (i := .plp) rfl (.inl rfl)).trans (by rw [pullStatus_eq]; rfl)

/-- Settles O47: the executor of NOP leaves the state as it is, and the published row charges 2. -/
theorem nopOnlyAdvances : Obligations.NopOnlyAdvances := by
  have hx (s : State) : exec .nop s = .next (afterTable .nop s s) :=
    exec_of_plain (f := id) rfl (.inl rfl)
  refine ⟨hasForms_of_perm (by decide +kernel), hx, fun s ht ho => ?_⟩
  obtain ⟨hc, hp⟩ := publishedTable_row_nop ht ho
  rw [hx, afterTable, hc, hp]
  rfl

/-- Settles O48: the rules of push and pop in the statement's words, and what they undo. -/
theorem popReturnsWhatPushStored : Obligations.PopReturnsWhatPushStored :=
  ⟨fun s b => ⟨s.push_inStack b, s.popped_eq, s.top_inStack⟩,
    fun s w => ⟨by rw [State.push16, hi8, lo8_eq_ofNat_mod], rfl, word16_toNat ..⟩,
    fun s b => ⟨s.top_push b, s.push_popped_sp b, fun _ => s.push_popped_load_other b⟩,
    fun s w => ⟨s.top16_push16 w, s.push16_popped16_sp w⟩⟩

/-- Settles O49: bit by bit; the published positions are distinct, and theirs are the bits of `0x30`. -/
theorem statusByteRoundTrip : Obligations.StatusByteRoundTrip := by
  refine ⟨getLsbD_encodeStatus_iff, encodeStatus_publishedFlagPos, fun p f b h =>
    encodeStatus_decodeStatus f h b, fun f b => ?_, fun p f g h => decodeStatus_encodeStatus f h g⟩
  rw [encodeStatus_decodeStatus f (by decide) b, BitVec.or_assoc]
  rfl

/-- Settles O12: CLI stages `Some(0)` and moves `pc` to the NOP, whose apply step clears `I`. -/
theorem cliTakesEffectOneInstructionLater : Obligations.CliTakesEffectOneInstructionLater := by
  intro s ht hcli hnop
  obtain ⟨hbc, hbn⟩ : publishedTable.opByte .cli = 0x58 ∧ publishedTable.opByte .nop = 0xEA := by
    decide +kernel
  have hst := step_of_published_plain (i := .cli) ht rfl (hcli.trans hbc.symm) rfl rfl
  set t := afterTable .cli (withOp none (applyPending s)) (stage false (withOp none (applyPending s)))
  have htc : t.config = s.config := applyPending_config s
  have htl : t.load t.pc = 0xEA := by
    change (applyPending s).load ((applyPending s).pc + 1#16) = _
    simpa [State.load_eq] using hnop
  have hsu := step_of_published_plain (i := .nop) (htc ▸ ht) rfl (htl.trans hbn.symm) rfl rfl
  have hi : (applyPending t).flags.i = false := by rw [applyPending_some (s := t) (b := false) rfl]
  exact ⟨t, _, hst, rfl, rfl, hsu, hi, applyPending_pend t⟩

end Sys2Proof.Proofs

/-! SUPPORT. Control transfer: branches, subroutine calls and the trap in the words of the statements, and a
call or a trap undone by its return. -/

namespace Sys2Proof.Machine

open Sys2Proof Sys2Proof.Claims

/-- What `exec` answers for a control transfer (R72). -/
theorem exec_of_cf {i : Instr} {s : State} (hc : i.cls = .cf) :
    exec i s = .next (controlEffect i.mnem i.operand s) := by
  rw [Instr.cls, Instr.mode] at hc
  rw [exec_eq, pairingOutcome, hc]

/-- JSR in the model's stack operations (R181). -/
theorem exec_jsrAbs (a : Addr) (s : State) :
    exec (.jsrAbs a) s = .next (((s.push16 (s.pc + 2#16)).setPc a).charge 6) := exec_of_cf rfl

/-- RTS in the model's stack operations (R182). -/
theorem exec_rts (s : State) :
    exec .rts s = .next ((s.popped16.setPc (s.top16 + 1#16)).charge 6) := exec_of_cf rfl

/-- The opcode byte of a mnemonic with one encoding. -/
theorem opByte_of_hasEncodings {i : Instr} {op : Byte} {md : Mode}
    (h : HasEncodings i.mnem [(op, md)]) : publishedTable.opByte i = op :=
  congrArg Prod.fst (List.mem_singleton.1 (h.1 i rfl))

/-! The branches (R87, R170). -/

/-- The target of a branch is reached by its signed offset. -/
theorem branchTarget_eq_ofInt (w : Addr) (off : Byte) :
    w + 2#16 + sext16 off = BitVec.ofInt 16 (w.toNat + 2 + off.toInt) := by
  have hs := sext16_toNat off
  apply BitVec.eq_of_toNat_eq
  simp only [BitVec.toNat_add, BitVec.toNat_ofNat, BitVec.toNat_ofInt]
  omega

/-- Two addresses lie in one page where their high bytes agree. -/
theorem hi8_eq_iff (v w : Addr) : hi8 v = hi8 w ↔ v.toNat / 256 = w.toNat / 256 := by
  rw [← BitVec.toNat_inj, hi8_toNat, hi8_toNat]

theorem branchEffect_eq_branched (cond : Bool) (off : Byte) (s : State) :
    branchEffect cond (.rel off) s = branched s off cond := by
  cases cond
  case false => simp only [branched, laterBy_eq]; rfl
  case true =>
    simp only [branched, laterBy_eq, ← branchTarget_eq_ofInt, ← hi8_eq_iff]
    rfl

/-! 16-bit values on the stack, in the words of the statements (R159). -/

/-- The address JSR and BRK push, as a number (R181, R183). -/
theorem returnAddr_toNat (w : Addr) : (w + 2#16).toNat = (w.toNat + 2) % 65536 := BitVec.toNat_add ..

section
variable (s : State)

theorem State.push16_inStack (w : Addr) :
    s.push16 w = { s with
      mem := (s.mem.write (inStack s.sp) (BitVec.ofNat 8 (w.toNat / 256))).write
        (inStack (s.sp - 1#8)) (BitVec.ofNat 8 (w.toNat % 256))
      sp := s.sp - 2#8 } := by
  rw [State.push16_eq, lo8_eq_ofNat_mod, sub_sub]
  rfl

@[simp] theorem State.push16_sp (w : Addr) : (s.push16 w).sp = s.sp - 2#8 := sub_sub s.sp 1#8 1#8

@[simp] theorem State.push16_flags (w : Addr) : (s.push16 w).flags = s.flags := rfl

@[simp] theorem State.popped16_sp : s.popped16.sp = s.sp + 2#8 := add_assoc s.sp 1#8 1#8

@[simp] theorem State.popped16_flags : s.popped16.flags = s.flags := rfl

theorem State.top16_inStack :
    s.top16 = BitVec.ofNat 16 ((s.mem.read (inStack (s.sp + 2#8))).toNat * 256 +
      (s.mem.read (inStack (s.sp + 1#8))).toNat) := by
  rw [State.top16_eq, add_assoc]
  rfl

end

/-! The trap entry and its return in the words of the statements (R183, R184). -/

section
variable (s : State)

theorem takeTrap_inStack :
    takeTrap s = { s with
      mem := ((s.mem.write (inStack s.sp) (BitVec.ofNat 8 ((s.pc + 2#16).toNat / 256))).write
        (inStack (s.sp - 1#8)) (BitVec.ofNat 8 ((s.pc + 2#16).toNat % 256))).write
        (inStack (s.sp - 2#8)) (encodeStatus s.config.flagPos s.flags)
      sp := s.sp - 3#8
      flags := { s.flags with i := true }
      pc := 0xFFFE
      cyc := laterBy 7 s } := by
  have h3 : s.sp - 2#8 - 1#8 = s.sp - 3#8 := sub_sub ..
  rw [takeTrap, State.push16_inStack, State.push_inStack, laterBy_eq, ← h3]
  rfl

theorem returnFromTrap_inStack :
    returnFromTrap s = { s with
      sp := s.sp + 3#8
      flags := decodeStatus s.config.flagPos s.flags (s.mem.read (inStack (s.sp + 1#8)))
      pc := BitVec.ofNat 16 ((s.mem.read (inStack (s.sp + 3#8))).toNat * 256 +
        (s.mem.read (inStack (s.sp + 2#8))).toNat)
      cyc := laterBy 6 s } := by
  have h2 : s.sp + 1#8 + 1#8 = s.sp + 2#8 := add_assoc ..
  have h3 : s.sp + 2#8 + 1#8 = s.sp + 3#8 := add_assoc ..
  rw [returnFromTrap_eq, laterBy_eq, h2, h3]
  rfl

end

/-! The return from the trap undoes its entry (property T8). -/

section
variable (s : State)

/-- The second byte below the one pushed last is the byte below the top before. -/
theorem State.push_popped_popped_top (b : Byte) : (s.push b).popped.popped.top = s.popped.top := by
  have hn : (stackAddr (s.sp + 1#8 + 1#8)).toNat ≠ inStack s.sp := by
    rw [stackAddr_toNat, inStack]
    bv_omega
  have hl := State.push_popped_load_other s b hn
  rw [State.top, State.popped_sp, State.push_popped_sp]
  exact hl

/-- The word below the byte pushed last is the word on top before. -/
theorem State.push_popped_top16 (b : Byte) : (s.push b).popped.top16 = s.top16 := by
  rw [State.top16, State.push_popped_popped_top, State.push_popped_top, State.top16]

/-- The trap entry leaves the status byte on top. -/
theorem takeTrap_top : (takeTrap s).top = encodeStatus s.config.flagPos s.flags :=
  State.top_push (s.push16 (s.pc + 2#16)) _

/-- The trap entry leaves the return address below the status byte. -/
theorem takeTrap_popped_top16 : (takeTrap s).popped.top16 = s.pc + 2#16 :=
  (State.push_popped_top16 (s.push16 (s.pc + 2#16)) _).trans (s.top16_push16 _)

theorem returnFromTrap_takeTrap_pc : (returnFromTrap (takeTrap s)).pc = s.pc + 2#16 :=
  takeTrap_popped_top16 s

theorem returnFromTrap_takeTrap_sp : (returnFromTrap (takeTrap s)).sp = s.sp := by
  simp [returnFromTrap_eq, takeTrap_eq]

theorem returnFromTrap_takeTrap_flags (h : distinctPositions s.config.flagPos = true) :
    (returnFromTrap (takeTrap s)).flags = s.flags := by
  change decodeStatus s.config.flagPos (takeTrap s).flags (takeTrap s).top = s.flags
  rw [takeTrap_top, decodeStatus_encodeStatus s.flags h]

/-- The trap address lies outside the stack page, so the trap entry leaves the handler alone. -/
theorem takeTrap_load_trapAddr : (takeTrap s).load trapAddr = s.load trapAddr := by
  have hne (sp : Byte) : trapAddr ≠ stackAddr sp := by
    intro h
    have hsp := stackAddr_toNat sp
    rw [← h, trapAddr] at hsp
    bv_omega
  exact takeTrap_load_other (hne _) (hne _) (hne _)

end

/-! A step at the byte of a control transfer. -/

/-- Where the byte at `pc` is that of a one-byte control transfer, the step completes with what it does. -/
theorem step_of_published_control {s : State} {i : Instr} (ht : s.config.table = publishedTable)
    (hz : i.size = 1) (hb : s.load s.pc = publishedTable.opByte i) (hc : i.cls = .cf) :
    step s = .next (controlEffect i.mnem i.operand (withOp none (applyPending s))) :=
  (step_of_published_byte ht hz hb).trans (exec_of_cf hc)

end Sys2Proof.Machine

namespace Sys2Proof.Proofs

open Sys2Proof Sys2Proof.Machine Sys2Proof.Claims

/-- Settles O50: each branch is the one row of its mnemonic, and tests its own flag. -/
theorem branchesTestOneFlag : Obligations.BranchesTestOneFlag := by
  refine ⟨hasEncodings_of_perm (by decide), hasEncodings_of_perm (by decide),
    hasEncodings_of_perm (by decide), hasEncodings_of_perm (by decide),
    hasEncodings_of_perm (by decide), hasEncodings_of_perm (by decide),
    hasEncodings_of_perm (by decide), hasEncodings_of_perm (by decide), fun off s => ?_⟩
  simp only [← branchEffect_eq_branched]
  exact ⟨exec_of_cf rfl, exec_of_cf rfl, exec_of_cf rfl, exec_of_cf rfl, exec_of_cf rfl, exec_of_cf rfl,
    exec_of_cf rfl, exec_of_cf rfl⟩

/-- Settles O51: the two rows of JMP, of which the absolute one is a control transfer. -/
theorem jmpAbsoluteSetsPc : Obligations.JmpAbsoluteSetsPc := by
  refine ⟨hasEncodings_of_perm (by decide), fun a s => ?_⟩
  rw [laterBy_eq]
  exact exec_of_cf rfl

/-- Settles O52: JSR pushes the word `pc + 2`. -/
theorem jsrPushesReturnAddress : Obligations.JsrPushesReturnAddress := by
  refine ⟨hasEncodings_of_perm (by decide), fun a s => ?_⟩
  rw [exec_jsrAbs, State.push16_inStack, returnAddr_toNat, laterBy_eq]
  rfl

/-- Settles O53: RTS goes to one past the word popped. -/
theorem rtsPopsReturnAddress : Obligations.RtsPopsReturnAddress := by
  refine ⟨hasEncodings_of_perm (by decide), fun s => ?_⟩
  dsimp only
  rw [exec_rts, State.top16_inStack, ← BitVec.ofNat_add, ← State.popped16_sp, laterBy_eq]
  rfl

/-- Settles O54: BRK takes the trap. -/
theorem brkTakesTheTrap : Obligations.BrkTakesTheTrap := by
  refine ⟨hasEncodings_of_perm (by decide), fun s => ?_⟩
  dsimp only
  rw [← returnAddr_toNat, ← takeTrap_inStack]
  exact exec_of_cf rfl

/-- Settles O55: RTI returns from the trap. -/
theorem rtiRestoresFlagsAndPc : Obligations.RtiRestoresFlagsAndPc := by
  refine ⟨hasEncodings_of_perm (by decide), fun s => ?_⟩
  exact (exec_of_cf rfl).trans (congrArg Host.Outcome.next (returnFromTrap_inStack s))

/-- Settles O56: the word JSR pushed is the word RTS pops. -/
theorem rtsReturnsFromJsr : Obligations.RtsReturnsFromJsr := by
  intro a s
  have hpop : (s.push16 (s.pc + 2#16)).top16 + 1#16 = s.pc + 3#16 := by
    rw [State.top16_push16, add_assoc]
    rfl
  exact ⟨_, _, exec_jsrAbs a s, rfl, exec_rts _, hpop, by simp, by simp⟩

/-- Settles O57: the trap entry leaves the handler's byte and the empty latch alone, so that the second step
is the return from the trap, which undoes its entry. -/
theorem rtiReturnsFromBrk : Obligations.RtiReturnsFromBrk := by
  intro s ht hp hbrk hrti
  have hbb : publishedTable.opByte .brk = 0x00 := opByte_of_hasEncodings (i := .brk) brkTakesTheTrap.1
  have hbr : publishedTable.opByte .rti = 0x40 := opByte_of_hasEncodings (i := .rti) rtiRestoresFlagsAndPc.1
  set e := withOp none (applyPending s)
  have hc : e.config = s.config := applyPending_config s
  have hpc : e.pc = s.pc := applyPending_pc s
  have hn : (takeTrap e).pend = none := applyPending_pend s
  have hl : (takeTrap e).load (takeTrap e).pc = 0x40 := by
    change (takeTrap e).load trapAddr = 0x40
    rw [takeTrap_load_trapAddr, State.load_eq, show e.mem = s.mem from applyPending_mem s]
    exact hrti
  have hs : step s = .next (takeTrap e) :=
    step_of_published_control (i := .brk) ht rfl (hbrk.trans hbb.symm) rfl
  have hr : step (takeTrap e) = .next (returnFromTrap (takeTrap e)) := by
    have h := step_of_published_control (i := .rti) (hc ▸ ht) rfl (hl.trans hbr.symm) rfl
    rwa [applyPending_none hn] at h
  have hu : (returnFromTrap (takeTrap e)).pend = none := (controlEffect_pend .rti .imp _).trans hn
  exact ⟨_, _, hs, hr, (returnFromTrap_takeTrap_pc e).trans (by rw [hpc]),
    (returnFromTrap_takeTrap_sp e).trans (applyPending_sp s),
    returnFromTrap_takeTrap_flags e (hc ▸ hp), hu⟩

end Sys2Proof.Proofs

/-! SUPPORT. What completes: the two classes of an opcode that can fault, a step of any other, and the bytes
the published table gives a row. -/

namespace Sys2Proof.Machine

open Sys2Proof Sys2Proof.Claims

/-! The two classes that can fault (R54 to R56, R180). -/

theorem cls_fault_iff (mn : Mnemonic) (md : Mode) : mn.cls md = .fault ↔ mn = .jmp ∧ md = .ind := by
  cases mn <;> simp [Mnemonic.cls]

theorem cls_opt_iff (mn : Mnemonic) (md : Mode) : mn.cls md = .opt ↔ mn ∈ [.inx, .iny, .dex, .dey] := by
  refine ⟨fun h => ?_, fun h => cls_of_mem_indexIncdec h md⟩
  cases mn
  case inx | iny | dex | dey => decide
  case jmp => cases md <;> cases h
  all_goals cases h

/-! A transaction and a step that complete (R70, R190). -/

/-- A pairing whose class is not the faulting one, and is the optional one only where that is in the table,
has a next state. -/
theorem exists_pairingOutcome_next {mn : Mnemonic} {o : Operand} {s : State} (hf : mn.cls o.mode ≠ .fault)
    (hx : mn.cls o.mode = .opt → s.config.indexIncdec = true) : ∃ t, pairingOutcome mn o s = .next t := by
  unfold pairingOutcome
  cases hc : mn.cls o.mode with
  | tbl => exact ⟨_, rfl⟩
  | opt => exact ⟨_, if_pos (hx hc)⟩
  | cf => exact ⟨_, rfl⟩
  | fault => exact absurd hc hf

/-- The same of a step, by the row of the byte at `pc`. -/
theorem exists_step_next {s : State} {row : TableRow} (hr : s.config.table.rowAt (s.load s.pc) = some row)
    (hf : row.mnem.cls row.mode ≠ .fault)
    (hx : row.mnem.cls row.mode = .opt → s.config.indexIncdec = true) : ∃ t, step s = .next t := by
  obtain ⟨u, hu⟩ := exists_pairingOutcome_next (mn := row.mnem) (o := rowOperand row (fetch s))
    (s := entered (s.load s.pc) s) (by rwa [rowOperand_mode]) (by rwa [rowOperand_mode, entered_config])
  exact ⟨u.setOp none, by rw [step_of_rowAt hr, hu]; rfl⟩

/-! The bytes of the published table (R53 to R56). -/

/-- Every byte that R54 does not list has a row. -/
theorem publishedTable_rowAt_present :
    ∀ op : Byte, op ∉ absentBytes → (publishedTable.rowAt op).isSome = true := by
  decide +kernel

/-- Only `0x6C` is JMP indirect, and only the four bytes of R56 are of the optional class. -/
theorem publishedTable_cls : ∀ row ∈ publishedTable,
    (row.mnem.cls row.mode = .fault → row.op = 0x6C) ∧
      (row.mnem.cls row.mode = .opt → row.op ∈ optionalBytes) := by
  decide +kernel

end Sys2Proof.Machine

namespace Sys2Proof.Proofs

open Sys2Proof Sys2Proof.Machine Sys2Proof.Claims

/-- Settles O9: a step by a row completes unless the row's class faults, and the published row of a byte is
of such a class only at `0x6C` and the optional bytes. -/
theorem nothingElseFaults : Obligations.NothingElseFaults := by
  constructor
  case left =>
    intro s ht hjmp habs hopt
    obtain ⟨row, hr⟩ := Option.isSome_iff_exists.1 (publishedTable_rowAt_present _ habs)
    obtain ⟨hm, hop, -⟩ := OpcodeTable.rowAt_some hr
    obtain ⟨hf, hx⟩ := publishedTable_cls row hm
    rw [hop] at hf hx
    exact exists_step_next (ht ▸ hr) (fun hc => hjmp (hf hc)) fun hc => hopt (hx hc)
  case right =>
    intro s row hr hjmp hopt
    exact exists_step_next hr (fun hc => hjmp ((cls_fault_iff _ _).1 hc)) fun hc =>
      hopt ((cls_opt_iff _ _).1 hc)

end Sys2Proof.Proofs

namespace Sys2Proof.Proofs

open Sys2Proof Sys2Proof.Machine Sys2Proof.Claims

/-- Settles O13: each component is the one the record of `State.coldBoot` states, and the reset state is the
cold boot with the default parameters of R3 and nothing listed in memory. -/
theorem coldBootValues : Obligations.ColdBootValues := by
  constructor
  case left =>
    intro cfg m
    exact ⟨rfl, rfl, rfl, rfl, rfl, rfl, rfl, rfl, rfl, rfl, rfl, rfl, rfl, rfl⟩
  case right => exact ⟨coldConfig, [], rfl⟩

end Sys2Proof.Proofs
